-- ==== Sys2Proof/Word.lean ====
section
/-! DEFINITION. The word types of the block's ports and registers (rules R10, R81, R87). -/

namespace Sys2Proof

/-- A u128: STATE, INC, MUL, STEP, both operand buses, response data (R7, R30, R80). -/
abbrev U128 := BitVec 128

/-- A u64: the output of the permutation (R7 `W_OUT`, R150). -/
abbrev U64 := BitVec 64

/-- A u8: a command word, and ITER (R46, R81). -/
abbrev U8 := BitVec 8

/-- A u6: a rotation amount (R113). -/
abbrev U6 := BitVec 6

/-- A u2: a response status or a trace tag (R87, R88). -/
abbrev U2 := BitVec 2

end Sys2Proof
end

