-- ==== Sys2Proof/Config.lean ====
section
/-! DEFINITION. What is fixed for a block: the constants of R7, the parameters of R8, and the free values that stand for
what the spec leaves unspecified (93_implementation_defined.md U2, U4, U5). -/

namespace Sys2Proof

/-- The two readings of SEED's increment update (R8 `SEED_INC_MODE`, R133, conflict C1). -/
inductive SeedIncMode where
  /-- `INC <- INC | incval(b)`, the default. -/
  | orInto
  /-- `INC <- incval(b)`. -/
  | replace
deriving DecidableEq, Repr

/-- A `HOST_BUS_MAP` (R8, R61, U9): where the 128 bits of a port value stand in the words of a narrower host bus. Word and
byte order, and any other order, are such a placing (log 18). -/
structure BusMap where
  /-- Width of a bus word. -/
  width : Nat
  /-- Bus words that carry one port value. -/
  beats : Nat
  /-- Entry `i` is the place of bit `i` of the port value in the words, the first word's bit 0 being place 0. -/
  place : List Nat
deriving DecidableEq, Repr

/-- The parameters of R8. They are fixed for one block: State carries them and nothing writes them, so a statement for
every state is a statement for every parameter value. -/
structure Config where
  /-- `W_STEP`, the width of STEP (R30, R35); 1 to 128, since a response carries STEP (R193, log 20). -/
  wStep : Nat
  /-- `HOST_BUS_MAP` (R8, R61): OPEN. `none` is a host bus that carries a port value whole (log 18). -/
  hostBusMap : Option BusMap
  /-- `SEED_INC_MODE` (R133). -/
  seedIncMode : SeedIncMode
  /-- `SEED_CLEAR_STATE` (R134). -/
  seedClearState : Bool
  /-- `LAT_SEED` (R258). -/
  latSeed : Nat
  /-- `LAT_ROLL` (R258). -/
  latRoll : Nat
  /-- `LAT_JUMP` (R258); one number, so it cannot depend on the distance. -/
  latJump : Nat
  /-- `LAT_OTHER` (R258): TRACE, the reads and every error response. -/
  latOther : Nat
deriving DecidableEq, Repr

namespace Config

/-- The defaults of R8 and the reference latencies of R258. HOST_BUS_MAP has no default: DESIGN CHOICE (log 18). -/
def reference : Config where
  wStep := 128
  hostBusMap := none
  seedIncMode := .orInto
  seedClearState := false
  latSeed := 2
  latRoll := 1
  latJump := 129
  latOther := 1

/-- The high half of the multiplier as the source writes it (R7). -/
def mulHi : U64 := 2549297995355413924#64

/-- The low half of the multiplier as the source writes it (R7). -/
def mulLo : U64 := 4865540595714422341#64

/-- The hardwired multiplier `MUL = {hi, lo}`, composed high word first (R34, R61). -/
def MUL : U128 := mulHi ++ mulLo

/-- The jump circuit's iteration count (R7 `JUMP_ITERS`). -/
def jumpIters : Nat := 128

/-! Free values. Nothing constrains them; each is applied to the draw counter of State, so every use is a fresh one. -/

/-- CUR_M outside a JUMP (U4). -/
opaque freeCurM : Nat → BitVec 128
/-- CUR_P outside a JUMP (U4). -/
opaque freeCurP : Nat → BitVec 128
/-- ACC_M outside a JUMP (U4). -/
opaque freeAccM : Nat → BitVec 128
/-- ACC_P outside a JUMP (U4). -/
opaque freeAccP : Nat → BitVec 128
/-- DLT outside a JUMP (U4). -/
opaque freeDlt : Nat → BitVec 128
/-- ITER outside a JUMP (U4). -/
opaque freeIter : Nat → BitVec 8
/-- RSP_STATUS while RSP_VALID = 0 (U5). -/
opaque freeRspStatus : Nat → BitVec 2
/-- RSP_DATA while RSP_VALID = 0 (U5). -/
opaque freeRspData : Nat → BitVec 128
/-- `trc_tag` while `trc_valid` = 0 (U5). -/
opaque freeTrcTag : Nat → BitVec 2
/-- `trc_state` while `trc_valid` = 0 (U5). -/
opaque freeTrcState : Nat → BitVec 128
/-- `trc_valid` before the first reset (U2). -/
opaque freeTrcValid : Nat → Bool
/-- Bits of the bus words to which HOST_BUS_MAP gives no bit of the port value (U9): by the draw, then by the bit's place. -/
opaque freePadding : Nat → Nat → Bool
/-- STATE before the first reset (U2). -/
opaque freeState : Nat → BitVec 128
/-- INC before the first reset (U2). -/
opaque freeInc : Nat → BitVec 128
/-- STEP before the first reset (U2). -/
opaque freeStep : Nat → BitVec 128
/-- TRC before the first reset (U2). -/
opaque freeTrc : Nat → Bool
/-- SEEDED before the first reset (U2). -/
opaque freeSeeded : Nat → Bool
/-- RSP_VALID before the first reset (U2). -/
opaque freeRspValid : Nat → Bool
/-- BUSY before the first reset (U2). -/
opaque freeBusy : Nat → Bool

end Config

end Sys2Proof
end

