-- ==== Sys2Proof/Syntax.lean ====
section
/-! DEFINITION. The eight commands, the raw command transfer, and the lines of the assembler (rules R80, R83, R89, R90). -/

namespace Sys2Proof

/-- The commands of the opcode map (R83), with the operands R82 says each reads. -/
inductive Instr where
  /-- SEED: `a` is the seed value, `b` the sequence value (R132). -/
  | seed (a b : U128)
  /-- ROLL (R152). -/
  | roll
  /-- JUMP: `d` is the distance (R173). -/
  | jump (d : U128)
  /-- TRACE (R190). -/
  | trace
  /-- RDSTATE (R191). -/
  | rdstate
  /-- RDINC (R192). -/
  | rdinc
  /-- RDSTEP (R193). -/
  | rdstep
  /-- RDSTAT (R194). -/
  | rdstat
deriving DecidableEq, Repr

/-- One transfer on the command port: `(cmd_word, cmd_a, cmd_b)` (R80). -/
structure Command where
  word : U8
  a : U128
  b : U128
deriving DecidableEq, Repr

/-- A line of an assembler program (R89) and the pseudo-instructions (R90). Operands are integers of any size and sign. -/
inductive AsmLine where
  | seed (seed seq : Int)
  | roll
  | jump (delta : Int)
  | trace
  | rdstate
  | rdinc
  | rdstep
  | rdstat
  /-- `REWIND <k>`. -/
  | rewind (k : Int)
  /-- `STEP`. -/
  | step
  /-- `NOP`. -/
  | nop
  /-- `.cmd <w> [, <a> [, <b>]]`: a raw command word. -/
  | cmd (w a b : Int)
  /-- `.reset`: the host asserts `rst`; not a command. -/
  | reset
deriving DecidableEq, Repr

/-- What a program line makes the host do. -/
inductive HostAction where
  | command (c : Command)
  | reset
deriving DecidableEq, Repr

end Sys2Proof
end

