-- ==== Sys2Proof/WellFormed.lean ====
section
/-! DEFINITION. The checks on terms. An `Instr` needs none: its operands are u128 by type and every u128 is legal (R82,
R132, R173). The checks are on raw command words, on assembler lines and on the parameters. -/

namespace Sys2Proof

/-- `RSV`, bits 7:4 of a command word (R81). -/
def rsvField (w : U8) : BitVec 4 := w.extractLsb' 4 4

/-- `OPC`, bits 3:0 of a command word (R81). -/
def opcField (w : U8) : BitVec 4 := w.extractLsb' 0 4

/-- RSV must be 0b0000 (R81, R85). -/
def Command.reservedBitsClear (c : Command) : Bool := rsvField c.word == 0#4

/-- OPC is one of the assigned opcodes 0x1 to 0x8 (R83). -/
def Command.opcodeAssigned (c : Command) : Bool := 1#4 ≤ opcField c.word && opcField c.word ≤ 8#4

/-- A legal command word: one of the 8 of R83 (R85). -/
def Command.wellFormed (c : Command) : Bool := c.reservedBitsClear && c.opcodeAssigned

/-- `.cmd` takes a raw command word in 0..255; every other line takes any integers (R89). -/
def AsmLine.wellFormed : AsmLine → Bool
  | .cmd w _ _ => decide (0 ≤ w) && decide (w ≤ 255)
  | _ => true

/-- A map onto a bus narrower than 128 bits (R61): every bit of the value has its own place in the words. -/
def BusMap.wellFormed (m : BusMap) : Bool :=
  decide (1 ≤ m.width) && decide (m.width < 128) && decide (m.place.length = 128) && decide m.place.Nodup &&
    m.place.all fun j => decide (j < m.beats * m.width)

/-- Every latency is at least 1 (R8, R258), STEP has 1 to 128 bits (R8, R35, log 20), and the bus map is one (R61). -/
def Config.wellFormed (c : Config) : Bool :=
  decide (1 ≤ c.latSeed) && decide (1 ≤ c.latRoll) && decide (1 ≤ c.latJump) && decide (1 ≤ c.latOther) &&
    decide (1 ≤ c.wStep) && decide (c.wStep ≤ 128) && c.hostBusMap.all BusMap.wellFormed

end Sys2Proof
end

