-- ==== Sys2Proof/Decode.lean ====
section
/-! DEFINITION. The decoder (R84), total on the 256 command words and rejecting by name, and the encoder (R83, R89). -/

namespace Sys2Proof

/-- Why a command word is illegal (R84, R221). Both answer ILLEGAL_COMMAND. -/
inductive IllegalWord where
  /-- RSV ≠ 0. -/
  | reservedBits
  /-- OPC is 0x0 or 0x9 to 0xF. -/
  | reservedOpcode
deriving DecidableEq, Repr

/-- What the decoder answers. -/
inductive Decoded where
  | instr (i : Instr)
  | illegal (why : IllegalWord)
deriving DecidableEq, Repr

/-- The tests of R84, in its order: RSV first, then OPC. Operands are taken from the buses that R82 says are read. -/
def decode (c : Command) : Decoded :=
  if rsvField c.word ≠ 0#4 then .illegal .reservedBits
  else
    match opcField c.word with
    | 0x1#4 => .instr (.seed c.a c.b)
    | 0x2#4 => .instr .roll
    | 0x3#4 => .instr (.jump c.a)
    | 0x4#4 => .instr .trace
    | 0x5#4 => .instr .rdstate
    | 0x6#4 => .instr .rdinc
    | 0x7#4 => .instr .rdstep
    | 0x8#4 => .instr .rdstat
    | _ => .illegal .reservedOpcode

/-- The command transfer of an instruction: its word from R83, its operands on the buses of R82, and 0 on a bus it
ignores (R89). -/
def encode : Instr → Command
  | .seed a b => ⟨0x01#8, a, b⟩
  | .roll => ⟨0x02#8, 0, 0⟩
  | .jump d => ⟨0x03#8, d, 0⟩
  | .trace => ⟨0x04#8, 0, 0⟩
  | .rdstate => ⟨0x05#8, 0, 0⟩
  | .rdinc => ⟨0x06#8, 0, 0⟩
  | .rdstep => ⟨0x07#8, 0, 0⟩
  | .rdstat => ⟨0x08#8, 0, 0⟩

/-- The transfer that a number stands for when the command word and the two buses are written as one number: the word in
bits 7:0 (the opcode table's numbering), `cmd_a` in bits 135:8, `cmd_b` in bits 263:136, and every bit from `nbits` up 0.
DESIGN CHOICE (log 11), safe: the block itself has no such number (R86), and the table's rows have 8 bits. -/
def commandOfBits (nbits w : Nat) : Command :=
  let v := w % 2 ^ nbits
  ⟨BitVec.ofNat 8 v, BitVec.ofNat 128 (v / 2 ^ 8), BitVec.ofNat 128 (v / 2 ^ 136)⟩

/-- The instruction the decoder reads from a number in the opcode table's numbering. -/
def decodeTableWord (nbits w : Nat) : Option Instr :=
  match decode (commandOfBits nbits w) with
  | .instr i => some i
  | .illegal _ => none

end Sys2Proof
end

