-- ==== Sys2Proof/Machine/State.lean ====
section
/-! DEFINITION. Everything the block holds (10_state.md), what stands on its ports, and what its host will drive. -/

namespace Sys2Proof.Machine

/-- The working registers of the jump circuit (R46, R171). -/
structure JumpRegs where
  curM : U128
  curP : U128
  accM : U128
  accP : U128
  dlt : U128
  iter : U8
deriving DecidableEq, Repr

/-- A response: `rsp_status` and `rsp_data` (R87). -/
structure Response where
  status : U2
  data : U128
deriving DecidableEq, Repr

/-- The kinds of trace event. Codes 0 and 3 are never produced (R88), so only these two exist. -/
inductive TraceTag where
  /-- `trc_tag = 1`. -/
  | adv
  /-- `trc_tag = 2`. -/
  | jmp
deriving DecidableEq, Repr

/-- A trace event: `trc_tag` and `trc_state` (R88). -/
structure TraceEvent where
  tag : TraceTag
  state : U128
deriving DecidableEq, Repr

/-- The input ports as one rising edge samples them (R80), with the two facts about the host's driving that the samples
cannot show (R72, R255), and whether the trace observer samples this edge (R256). -/
structure PortIn where
  rst : Bool
  cmdValid : Bool
  command : Command
  rspReady : Bool
  /-- The observer samples the trace port at this edge (R256). -/
  traceSampled : Bool
  /-- The host changes `cmd_valid`, `cmd_word`, `cmd_a` or `cmd_b` in the same cycle as this edge (R255). -/
  commandChanging : Bool
  /-- How many agents drive the command port with no arbiter between them (R72); 1 is one host. -/
  agents : Nat
deriving DecidableEq, Repr

/-- What the outside does next. -/
inductive HostEvent where
  /-- A rising edge of `clk`. -/
  | edge (p : PortIn)
  /-- The clock stops (R234). -/
  | clockStops
  /-- Power is removed (R234). -/
  | powerLost
deriving DecidableEq, Repr

/-- The state of one block and of what its host is about to drive. -/
structure State where
  /-- STATE (R31). -/
  state : U128
  /-- INC (R32). -/
  inc : U128
  /-- STEP (R35), zero-extended from its W_STEP bits. -/
  stepCount : U128
  /-- TRC (R37). -/
  trc : Bool
  /-- SEEDED (R36). -/
  seeded : Bool
  /-- RSP_VALID (R42). -/
  rspValid : Bool
  /-- RSP_STATUS (R42). -/
  rspStatus : U2
  /-- RSP_DATA (R42). -/
  rspData : U128
  /-- BUSY (R43). -/
  busy : Bool
  /-- The jump working registers (R46). -/
  jump : JumpRegs
  /-- The response the command in progress will present (R87, R254). -/
  answer : Option Response
  /-- Rising edges left until the response is valid (R258). -/
  wait : Nat
  /-- Trace events the command in progress has still to present, oldest first (R88, R256). -/
  events : List TraceEvent
  /-- The event on the trace port in this cycle; none is `trc_valid = 0` (R88, R256). -/
  trcPort : Option TraceEvent
  /-- `rst` has been sampled at 1 since power-up (R252). -/
  wasReset : Bool
  /-- The command the host has raised and the block has not accepted (R255). -/
  offered : Option Command
  /-- The parameters (R8). -/
  cfg : Config
  /-- MODEL's own: what the host drives next, first entry first (log 9). -/
  inputs : List HostEvent
  /-- MODEL's own: the responses taken so far, oldest first (R260, log 13). -/
  taken : List Response
  /-- MODEL's own: the trace events sampled so far, oldest first (R260, log 13). -/
  traceLog : List TraceEvent
  /-- MODEL's own: how many free values have been drawn (log 10). -/
  drawn : Nat
deriving DecidableEq, Repr

/-- Why the machine stops with a fault. -/
inductive Fault where
  /-- Raised by a rising edge at which a response with the reserved status code 3 is presented: the block never produces
  it, and a model that sees it flags a broken implementation (R87, U10). Safe: no run reaches it. -/
  | reservedStatus
deriving DecidableEq, Repr

/-- Why the machine gives a step no meaning. -/
inductive Refusal where
  /-- Raised by `exec` for a command that has no meaning yet; none is left. Safe. -/
  | notModelled (mnemonic : String)
  /-- Raised by an edge whose command port two or more agents drive without arbitration (R72, U1). Safe. -/
  | unarbitratedPort
  /-- Raised by an edge that offers a command before the first reset (R252, U2). Safe. -/
  | commandBeforeReset
  /-- Raised by an edge at which the host has withdrawn or changed a raised command (R255, U3). Safe. -/
  | commandWithdrawn
  /-- Raised by an accepting edge in whose cycle the host changes the command (R255, U3). Safe. -/
  | commandChangedAtEdge
  /-- Raised when the clock stops: the spec says nothing of the state then (R234, U12). Safe. -/
  | clockStopped
  /-- Raised when power is removed: the spec says nothing of the state then (R234, U12). Safe. -/
  | powerLost
deriving DecidableEq, Repr

/-- The value State.reset names for the working registers: R46 and R250 give none. DESIGN CHOICE (log 2), unsafe. -/
def JumpRegs.zero : JumpRegs := ⟨0, 0, 0, 0, 0, 0⟩

/-- The machine right after reset (R30, R42, R43, R250), with the default parameters (R8) and nothing driven yet. -/
def State.reset : State where
  state := 0
  inc := 0
  stepCount := 0
  trc := false
  seeded := false
  rspValid := false
  rspStatus := 0
  rspData := 0
  busy := false
  jump := JumpRegs.zero
  answer := none
  wait := 0
  events := []
  trcPort := none
  wasReset := true
  offered := none
  cfg := Config.reference
  inputs := []
  taken := []
  traceLog := []
  drawn := 0

end Sys2Proof.Machine
end

