-- ==== Sys2Proof/Machine/Arith.lean ====
section
/-! DEFINITION. The datapath primitives (40_arith.md) and the output permutation built from them (R150). All results are
reduced to their width; no primitive is signed, fails or sets a flag (R117, R118). -/

namespace Sys2Proof.Machine

/-- R110: the sum mod 2^128, the carry out discarded. -/
def add128 (a b : U128) : U128 := a + b

/-- R111: the low 128 bits of the product. -/
def mul128 (a b : U128) : U128 := a * b

/-- Reduction of STEP mod 2^W_STEP (R35); the identity for the default width. -/
def wrapStep (w : Nat) (v : U128) : U128 := BitVec.ofNat 128 (v.toNat % 2 ^ w)

/-- R112: bits 127:64. -/
def hi64 (s : U128) : U64 := s.extractLsb' 64 64

/-- R112: bits 63:0. -/
def lo64 (s : U128) : U64 := s.extractLsb' 0 64

/-- R112: the two halves XORed. -/
def fold64 (s : U128) : U64 := hi64 s ^^^ lo64 s

/-- R113: bits 127:122. -/
def top6 (s : U128) : U6 := s.extractLsb' 122 6

/-- R114: `(q << 1) | 1`, bit 127 of `q` lost. -/
def incval (q : U128) : U128 := (q <<< 1) ||| 1#128

/-- R115: rotate right, written as the source writes it, so that no shift by 64 occurs. -/
def rotr64 (v : U64) (r : U6) : U64 := (v >>> r.toNat) ||| (v <<< ((-r) &&& 63#6).toNat)

/-- R116: bitwise OR. -/
def or128 (x y : U128) : U128 := x ||| y

/-- R150: the XSL-RR output permutation. -/
def xslrr (s : U128) : U64 := rotr64 (fold64 s) (top6 s)

end Sys2Proof.Machine
end

