-- ==== Sys2Proof/Machine/Operands.lean ====
section
/-! DEFINITION. How integers reach the operand buses and how narrow values reach the data bus (R11, R14, R82, R91).
Which bus each command reads is in `decode`. -/

namespace Sys2Proof.Machine

/-- `trunc_128`: the two's-complement residue of an integer, taken by the host before it drives a bus (R14, R91). -/
def trunc128 (k : Int) : U128 := BitVec.ofInt 128 k

/-- `zext_128` of a 64-bit output (R11, R87). -/
def zext128 (v : U64) : U128 := v.setWidth 128

/-- The signed reading of the `w` bits of STEP, which only a host takes (R35, R193). -/
def signedView (w : Nat) (v : U128) : Int := (v.setWidth w).toInt

end Sys2Proof.Machine
end

