-- ==== Sys2Proof/Machine/Flags.lean ====
section
/-! DEFINITION. The status bits, views and codes of the block. It has no arithmetic flags (R39). -/

namespace Sys2Proof.Machine

/-- The STATUS view: bit 0 SEEDED, bit 1 TRC, bits 127:2 read as 0 (R40). -/
def statusView (seeded trc : Bool) : U128 := (BitVec.ofBool trc ++ BitVec.ofBool seeded).setWidth 128

/-- TRACE's response data: bit 1 the TRC before, bit 0 the TRC after (R87, R190). -/
def traceData (old : Bool) : U128 := (BitVec.ofBool old ++ BitVec.ofBool (!old)).setWidth 128

/-- `rsp_status` of a completed command (R87). -/
def statusOk : U2 := 0#2

/-- The two errors (R220). -/
inductive ErrorCause where
  /-- A command word outside the 8 of R83 (R221). -/
  | illegalCommand
  /-- ROLL or JUMP while SEEDED = 0 (R222). -/
  | notSeeded
deriving DecidableEq, Repr

/-- The code of an error (R87, R220). -/
def errorCode : ErrorCause → U2
  | .illegalCommand => 1#2
  | .notSeeded => 2#2

/-- The status code that is never produced (R87, U10). -/
def statusReserved : U2 := 3#2

/-- `trc_tag` of a trace event (R88). -/
def tagCode : TraceTag → U2
  | .adv => 1#2
  | .jmp => 2#2

end Sys2Proof.Machine
end

