-- ==== Sys2Proof/Machine/Ops.lean ====
section
/-! DEFINITION. The operations the commands share: answering, tracing, raising an error, the step primitive, the free
values and reset. -/

namespace Sys2Proof.Machine

/-- The outcome type of the machine. -/
abbrev Result := Host.Outcome State Fault Refusal

/-- Go on with `f` after a next state. -/
def afterNext (f : State → State) : Result → Result
  | .next s => .next (f s)
  | .fault r => .fault r
  | .refused r => .refused r

/-- `respond(status, data)` (R13, R87): the command's one response, to be valid after `lat` rising edges (R258). -/
def respond (lat : Nat) (status : U2) (data : U128) (s : State) : State :=
  { s with answer := some ⟨status, data⟩, wait := lat }

/-- `emit_trace(tag, value)` (R13, R88): one event when TRC = 1 and nothing when TRC = 0. -/
def emitTrace (tag : TraceTag) (value : U128) (s : State) : State :=
  if s.trc then { s with events := s.events ++ [⟨tag, value⟩] } else s

/-- Raising an error: the command ends with `(code, 0)`, changes no register and emits no event (R13, R223). This is all
there is of taking an exception: no state is saved, no mode changes, control goes nowhere (R227). There is no return
from it either: nothing records the error once its response is taken (R228). -/
def raiseError (e : ErrorCause) (s : State) : State :=
  respond s.cfg.latOther (errorCode e) 0 s

/-- ADVANCE, the single step of the LCG (R130). -/
def advance (s : State) : State :=
  let x := add128 (mul128 Config.MUL s.state) s.inc
  emitTrace .adv x { s with state := x, stepCount := wrapStep s.cfg.wStep (s.stepCount + 1) }

/-- RSP_STATUS and RSP_DATA carry no meaning while RSP_VALID = 0 (R42, U5): free values. -/
def openResponseRegs (s : State) : State :=
  { s with rspStatus := Config.freeRspStatus s.drawn, rspData := Config.freeRspData s.drawn, drawn := s.drawn + 1 }

/-- The working registers are unspecified between JUMPs and after reset (R46, R250, U4): free values. -/
def openJumpRegs (s : State) : State :=
  { s with
    jump := ⟨Config.freeCurM s.drawn, Config.freeCurP s.drawn, Config.freeAccM s.drawn, Config.freeAccP s.drawn,
      Config.freeDlt s.drawn, Config.freeIter s.drawn⟩
    drawn := s.drawn + 1 }

/-- A rising edge with `rst = 1`: every register takes its reset value, a command in progress and its response are
abandoned, and the working registers are left unspecified (R250, R251). The parameters and the host's own records stay. -/
def applyReset (s : State) : State :=
  openJumpRegs
    { s with
      state := 0
      inc := 0
      stepCount := 0
      trc := false
      seeded := false
      rspValid := false
      rspStatus := 0
      rspData := 0
      busy := false
      answer := none
      wait := 0
      events := []
      trcPort := none
      wasReset := true }

/-- Before the first reset the value of every register is unspecified (R252, U2): free values. No command is in progress and no
event is stored, because no command is admitted; what `trc_valid` drives then is a free value of `portOut` (logs 10, 15). -/
def openAllRegs (s : State) : State :=
  openJumpRegs
    { s with
      state := Config.freeState s.drawn
      inc := Config.freeInc s.drawn
      stepCount := wrapStep s.cfg.wStep (Config.freeStep s.drawn)
      trc := Config.freeTrc s.drawn
      seeded := Config.freeSeeded s.drawn
      rspValid := Config.freeRspValid s.drawn
      rspStatus := Config.freeRspStatus s.drawn
      rspData := Config.freeRspData s.drawn
      busy := Config.freeBusy s.drawn
      answer := none
      wait := 0
      events := []
      trcPort := none }

/-- The block after power-up and before the first reset (R252). -/
def poweredUp : State := openAllRegs { State.reset with wasReset := false }

end Sys2Proof.Machine
end

