-- ==== Sys2Proof/Machine/Access.lean ====
section
/-! DEFINITION. TRACE and the register reads (44_access.md). -/

namespace Sys2Proof.Machine

/-- TRACE (R190): TRC toggles, the response carries the old and the new value, and no event is emitted. -/
def execTrace (s : State) : Result :=
  .next (respond s.cfg.latOther statusOk (traceData s.trc) { s with trc := !s.trc })

/-- RDSTATE (R191). -/
def execRdstate (s : State) : Result := .next (respond s.cfg.latOther statusOk s.state s)

/-- RDINC (R192). -/
def execRdinc (s : State) : Result := .next (respond s.cfg.latOther statusOk s.inc s)

/-- RDSTEP (R193), whether TRC is 0 or 1; zero-extended where W_STEP is less than 128 (log 20). -/
def execRdstep (s : State) : Result := .next (respond s.cfg.latOther statusOk s.stepCount s)

/-- RDSTAT (R194): the STATUS view. -/
def execRdstat (s : State) : Result := .next (respond s.cfg.latOther statusOk (statusView s.seeded s.trc) s)

end Sys2Proof.Machine
end

