-- ==== Sys2Proof/Machine/Jump.lean ====
section
/-! DEFINITION. JUMP and the jump-ahead circuit (43_jump.md). -/

namespace Sys2Proof.Machine

/-- The circuit's registers as a JUMP by `d` starts: CUR holds the coefficients of `f`, ACC the identity map (R171). -/
def jumpStart (inc d : U128) : JumpRegs where
  curM := Config.MUL
  curP := inc
  accM := 1
  accP := 0
  dlt := d
  iter := 0

/-- One iteration (R171): accumulate when DLT[0] = 1, then CUR_P from the old CUR_M, then CUR_M squared, then the shift. -/
def jumpIter (j : JumpRegs) : JumpRegs where
  accM := if j.dlt.getLsbD 0 then mul128 j.accM j.curM else j.accM
  accP := if j.dlt.getLsbD 0 then add128 (mul128 j.accP j.curM) j.curP else j.accP
  curP := mul128 (add128 j.curM 1) j.curP
  curM := mul128 j.curM j.curM
  dlt := j.dlt >>> 1
  iter := j.iter + 1

/-- `n` iterations. -/
def jumpIterate : Nat → JumpRegs → JumpRegs
  | 0, j => j
  | n + 1, j => jumpIterate n (jumpIter j)

/-- `jumpcoef(d)` leaves the coefficients of `f^d` in ACC_M and ACC_P: exactly `JUMP_ITERS` iterations, whatever `d` is
(R171). -/
def jumpCoef (inc d : U128) : JumpRegs := jumpIterate Config.jumpIters (jumpStart inc d)

/-- The circuit runs on the working registers (R46). -/
def runJumpCircuit (d : U128) (s : State) : State := { s with jump := jumpCoef s.inc d }

/-- The coefficients are applied; STATE is read once, here (R172). -/
def applyJump (s : State) : State := { s with state := add128 (mul128 s.jump.accM s.state) s.jump.accP }

/-- STEP gains the distance, mod 2^W_STEP (R35, R173). -/
def countJump (d : U128) (s : State) : State := { s with stepCount := wrapStep s.cfg.wStep (s.stepCount + d) }

/-- JUMP (R173): gated by SEEDED; no ADVANCE, so the one event is JMP. When it is over the working registers are dead
(R46). -/
def execJump (d : U128) (s : State) : Result :=
  if s.seeded then
    let t := countJump d (applyJump (runJumpCircuit d s))
    .next (respond t.cfg.latJump statusOk 0 (openJumpRegs (emitTrace .jmp t.state t)))
  else .next (raiseError .notSeeded s)

end Sys2Proof.Machine
end

