-- ==== Sys2Proof/Machine/Output.lean ====
section
/-! DEFINITION. ROLL (42_output.md). -/

namespace Sys2Proof.Machine

/-- ROLL (R152): gated by SEEDED, then one ADVANCE and the permutation of the state after it. -/
def execRoll (s : State) : Result :=
  if s.seeded then
    let t := advance s
    .next (respond t.cfg.latRoll statusOk (zext128 (xslrr t.state)) t)
  else .next (raiseError .notSeeded s)

end Sys2Proof.Machine
end

