-- ==== Sys2Proof/Machine/Seeding.lean ====
section
/-! DEFINITION. SEED (41_advance_seed.md). -/

namespace Sys2Proof.Machine

/-- SEED's increment update under the parameter `SEED_INC_MODE` (R133). -/
def seedInc (mode : SeedIncMode) (inc b : U128) : U128 :=
  match mode with
  | .orInto => or128 inc (incval b)
  | .replace => incval b

/-- STATE at the start of SEED under the parameter `SEED_CLEAR_STATE` (R134). -/
def seedStart (clear : Bool) (x : U128) : U128 := if clear then 0 else x

/-- Step 1 of SEED, with the clearing of R134. -/
def seedPrepare (b : U128) (s : State) : State :=
  { s with inc := seedInc s.cfg.seedIncMode s.inc b, state := seedStart s.cfg.seedClearState s.state }

/-- Step 3 of SEED: the seed is added into STATE. -/
def seedAdd (a : U128) (s : State) : State := { s with state := add128 s.state a }

/-- SEED (R132). -/
def execSeed (a b : U128) (s : State) : Result :=
  let t := advance (seedAdd a (advance (seedPrepare b s)))
  .next (respond t.cfg.latSeed statusOk t.state { t with seeded := true })

end Sys2Proof.Machine
end

