-- ==== Sys2Proof/Machine/Dispatch.lean ====
section
/-! DEFINITION. One arm per command. -/

namespace Sys2Proof.Machine

def exec (i : Instr) (s : State) : Host.Outcome State Fault Refusal :=
  match i with
  | .seed a b => Sys2Proof.Machine.execSeed a b s
  | .roll => Sys2Proof.Machine.execRoll s
  | .jump d => Sys2Proof.Machine.execJump d s
  | .trace => Sys2Proof.Machine.execTrace s
  | .rdstate => Sys2Proof.Machine.execRdstate s
  | .rdinc => Sys2Proof.Machine.execRdinc s
  | .rdstep => Sys2Proof.Machine.execRdstep s
  | .rdstat => Sys2Proof.Machine.execRdstat s

end Sys2Proof.Machine
end

