-- ==== Sys2Proof/Machine/Port.lean ====
section
/-! DEFINITION. The ports and one rising edge of `clk`: reset, the two handshakes, the trace port, what the host must
respect, and taking a command from the port (R80, R250 to R258). -/

namespace Sys2Proof.Machine

/-- The input ports when nothing is driven: one host, every input 0, the trace port not sampled. -/
def PortIn.idle : PortIn where
  rst := false
  cmdValid := false
  command := ⟨0, 0, 0⟩
  rspReady := false
  traceSampled := false
  commandChanging := false
  agents := 1

/-- The command on the port, if one is presented (R80). -/
def PortIn.offer (p : PortIn) : Option Command := if p.cmdValid then some p.command else none

/-- The output ports (R80). -/
structure PortOut where
  cmdReady : Bool
  rspValid : Bool
  rspStatus : U2
  rspData : U128
  trcValid : Bool
  trcTag : U2
  trcState : U128
deriving DecidableEq, Repr

/-- `cmd_ready`: 0 while `rst = 1` and while BUSY = 1, else 1 (R43, R250, R254). -/
def cmdReady (rst : Bool) (s : State) : Bool := !rst && !s.busy

/-- `trc_valid`: before the first reset it is as unspecified as the registers are (R252, U2), a free value. -/
def trcValid (rst : Bool) (s : State) : Bool :=
  !rst && (if s.wasReset then s.trcPort.isSome else Config.freeTrcValid s.drawn)

/-- What the block drives while `rst` has the given level. A data port has no meaning while its valid bit is 0 (U5): a
free value. -/
def portOut (rst : Bool) (s : State) : PortOut where
  cmdReady := cmdReady rst s
  rspValid := !rst && s.rspValid
  rspStatus := if !rst && s.rspValid then s.rspStatus else Config.freeRspStatus s.drawn
  rspData := if !rst && s.rspValid then s.rspData else Config.freeRspData s.drawn
  trcValid := trcValid rst s
  trcTag := if rst then Config.freeTrcTag s.drawn else (s.trcPort.map fun e => tagCode e.tag).getD (Config.freeTrcTag s.drawn)
  trcState := if rst then Config.freeTrcState s.drawn else (s.trcPort.map fun e => e.state).getD (Config.freeTrcState s.drawn)

/-- The host has withdrawn or changed a command it had raised (R255). -/
def breaksOffer (p : PortIn) (s : State) : Bool := s.offered.isSome && p.offer != s.offered

/-- The edges the spec gives no meaning (R72, R252, R255; U1, U2, U3). -/
def edgeRefusal (p : PortIn) (s : State) : Option Refusal :=
  if 2 ≤ p.agents then some .unarbitratedPort
  else if breaksOffer p s then some .commandWithdrawn
  else if p.rst then none
  else if p.cmdValid && !s.wasReset then some .commandBeforeReset
  else if p.cmdValid && cmdReady p.rst s && p.commandChanging then some .commandChangedAtEdge
  else none

/-- What the host has on offer at this edge, which it must hold until it is accepted (R255). -/
def recordOffer (p : PortIn) (s : State) : State := { s with offered := p.offer }

/-- An edge with `rst = 1` (R250, R251). A command the host holds through it stays offered. -/
def resetEdge (p : PortIn) (s : State) : State := recordOffer p (applyReset s)

/-- The observer records the event on the trace port; one it does not sample is lost (R256). -/
def sampleTrace (p : PortIn) (s : State) : State :=
  if p.traceSampled then { s with traceLog := s.traceLog ++ s.trcPort.toList } else s

/-- The accepting edge: BUSY is 1 from here, and the command is no longer on offer (R43, R254). -/
def acceptCommand (s : State) : State := openResponseRegs { s with busy := true, offered := none }

/-- The effect of a command transfer: the decoded command's, or ILLEGAL_COMMAND (R84, R221). -/
def runCommand (c : Command) (s : State) : Result :=
  match decode c with
  | .instr i => exec i s
  | .illegal _ => .next (raiseError .illegalCommand s)

/-- The host takes the response: RSP_VALID and BUSY fall, and the response is not held (R39, R254). -/
def takeResponse (s : State) : State :=
  openResponseRegs { s with taken := s.taken ++ [⟨s.rspStatus, s.rspData⟩], rspValid := false, busy := false }

/-- One cycle of a command in progress passes; its response becomes valid when none is left (R254, R258). -/
def countDown (s : State) : State :=
  match s.answer with
  | none => s
  | some r =>
    if s.wait ≤ 1 then
      { s with answer := none, wait := 0, rspValid := true, rspStatus := r.status, rspData := r.data }
    else { s with wait := s.wait - 1 }

/-- The trace port for the cycle after this edge. A command's events go out one a cycle and end in the cycle in which its
response is first valid, which with the reference latencies are the cycles R258 names (log 5). -/
def presentTrace (s : State) : State :=
  match s.events with
  | [] => { s with trcPort := none }
  | e :: rest =>
    if s.wait ≤ rest.length then { s with trcPort := some e, events := rest } else { s with trcPort := none }

/-- The response is taken, or held until it is, or a command in progress goes on, or the idle block holds everything
(R234, R254). -/
def progress (p : PortIn) (s : State) : State :=
  if s.rspValid then (if p.rspReady then takeResponse s else s) else countDown s

/-- An edge at which no command is accepted. -/
def runOn (p : PortIn) (s : State) : State := presentTrace (progress p (recordOffer p (sampleTrace p s)))

/-- One rising edge of `clk`. -/
def clockEdge (p : PortIn) (s : State) : Result :=
  match edgeRefusal p s with
  | some r => .refused r
  | none =>
    if p.rst then .next (resetEdge p s)
    else if !s.wasReset then .next (recordOffer p (openAllRegs s))
    else if s.rspValid && s.rspStatus == statusReserved then .fault .reservedStatus
    else if p.cmdValid && cmdReady p.rst s then
      afterNext presentTrace (runCommand p.command (acceptCommand (sampleTrace p s)))
    else .next (runOn p s)

/-- The state with `l` left for the host to drive (log 9). -/
def withInputs (l : List HostEvent) (s : State) : State := { s with inputs := l }

/-- The next thing the outside does: the first entry of `inputs`; with none left, nothing is driven (log 9). -/
def hostStep (s : State) : Result :=
  match s.inputs with
  | [] => clockEdge PortIn.idle s
  | .edge p :: rest => clockEdge p (withInputs rest s)
  | .clockStops :: _ => .refused .clockStopped
  | .powerLost :: _ => .refused .powerLost

/-- An edge at which one host presents a command. -/
def PortIn.present (c : Command) : PortIn := { PortIn.idle with cmdValid := true, command := c }

/-- The command is put where the next edge takes it: it is the next input, `rst` has been seen, and the port is ready.
A command that was in progress, or on offer, is given up (log 12). -/
def placeCommand (c : Command) (s : State) : State :=
  { s with
    wasReset := true
    busy := false
    rspValid := false
    answer := none
    wait := 0
    events := []
    offered := none
    inputs := .edge (PortIn.present c) :: s.inputs }

end Sys2Proof.Machine
end

