-- ==== Sys2Proof/Machine/Program.lean ====
section
/-! DEFINITION. The transaction level (R80, R259): a command and its response as one step, runs of host actions, and how
the host drives them at the ports edge by edge. -/

namespace Sys2Proof.Machine

/-- The host takes the pending response and the observer has sampled every event: the end of a transaction (R260). -/
def retire (s : State) : State :=
  match s.answer with
  | none => s
  | some r =>
    openResponseRegs
      { s with
        taken := s.taken ++ [r]
        traceLog := s.traceLog ++ s.events
        events := []
        answer := none
        wait := 0
        busy := false }

/-- One command as one atomic step from its state to its response and trace events (R259). None is admitted before the first
reset (R252, U2). -/
def transact (c : Command) (s : State) : Result :=
  if s.wasReset then afterNext retire (runCommand c (acceptCommand s)) else .refused .commandBeforeReset

/-- One host action at the transaction level. -/
def act (h : HostAction) (s : State) : Result :=
  match h with
  | .command c => transact c s
  | .reset => .next (resetEdge { PortIn.idle with rst := true } s)

/-- A program is a finite sequence of host actions (R16, R89). R260 ends a run at the last command's response and says nothing
of a text that ends in `.reset` or has no command: the whole list is run, a trailing reset too (DESIGN CHOICE, log 23). -/
def runActions : List HostAction → State → Result
  | [], s => .next s
  | h :: hs, s =>
    match act h s with
    | .next t => runActions hs t
    | .fault r => .fault r
    | .refused r => .refused r

/-- A run's result (R260). -/
structure RunResult where
  responses : List Response
  traceEvents : List TraceEvent
  state : U128
  inc : U128
  stepCount : U128
  trc : Bool
  seeded : Bool
deriving DecidableEq, Repr

/-- The result that a state shows, where the run began with empty records. -/
def runResult (s : State) : RunResult := ⟨s.taken, s.traceLog, s.state, s.inc, s.stepCount, s.trc, s.seeded⟩

/-- Cycles from acceptance to a valid response (R258). -/
def commandLatency (c : Command) (s : State) : Nat :=
  match decode c with
  | .illegal _ => s.cfg.latOther
  | .instr (.seed _ _) => s.cfg.latSeed
  | .instr .roll => if s.seeded then s.cfg.latRoll else s.cfg.latOther
  | .instr (.jump _) => if s.seeded then s.cfg.latJump else s.cfg.latOther
  | .instr .trace => s.cfg.latOther
  | .instr .rdstate => s.cfg.latOther
  | .instr .rdinc => s.cfg.latOther
  | .instr .rdstep => s.cfg.latOther
  | .instr .rdstat => s.cfg.latOther

/-- An edge at which the host drives nothing and the trace port is sampled. -/
def PortIn.watch : PortIn := { PortIn.idle with traceSampled := true }

/-- An edge at which the host takes a response. -/
def PortIn.take : PortIn := { PortIn.watch with rspReady := true }

/-- The edges by which a host issues one command to a ready block, waits `lat` cycles and takes the response (R254, R255). -/
def driveCommand (lat : Nat) (c : Command) : List HostEvent :=
  .edge (PortIn.present c) :: (List.replicate lat (.edge PortIn.watch) ++ [.edge PortIn.take])

/-- The edges by which a host runs a program. -/
def script : List HostAction → State → List HostEvent
  | [], _ => []
  | .reset :: hs, s =>
    .edge { PortIn.idle with rst := true } :: script hs (resetEdge { PortIn.idle with rst := true } s)
  | .command c :: hs, s =>
    match transact c s with
    | .next t => driveCommand (commandLatency c s) c ++ script hs t
    | .fault _ => []
    | .refused _ => [.edge (PortIn.present c)]

end Sys2Proof.Machine
end

