-- ==== Sys2Proof/Machine/Assembler.lean ====
section
/-! DEFINITION. The assembler of R89, its pseudo-instructions (R90) and the source's construct operation (R135). Text is a
list of characters a line. What R89 leaves open about the text is in log 19. -/

namespace Sys2Proof.Machine

/-- Space, tab and carriage return separate the parts of a line. -/
def isBlankChar (c : Char) : Bool := c == ' ' || c == '\t' || c == '\r'

/-- Leading blanks removed. -/
def dropBlanks : List Char → List Char
  | [] => []
  | c :: cs => if isBlankChar c then dropBlanks cs else c :: cs

/-- Blanks removed at both ends. -/
def trimBlanks (cs : List Char) : List Char := (dropBlanks (dropBlanks cs).reverse).reverse

/-- Everything before the comment, which starts at `;`. -/
def dropComment : List Char → List Char
  | [] => []
  | c :: cs => if c == ';' then [] else c :: dropComment cs

/-- The first word of a line and what follows it. -/
def splitWord : List Char → List Char × List Char
  | [] => ([], [])
  | c :: cs => if isBlankChar c then ([], cs) else (c :: (splitWord cs).1, (splitWord cs).2)

/-- The fields between commas. -/
def splitCommas : List Char → List (List Char)
  | [] => [[]]
  | c :: cs =>
    if c == ',' then [] :: splitCommas cs
    else
      match splitCommas cs with
      | [] => [[c]]
      | f :: fs => (c :: f) :: fs

/-- The value of a digit, decimal or hexadecimal in either case. -/
def digitValue (c : Char) : Option Nat :=
  let n := c.toNat
  if 48 ≤ n ∧ n ≤ 57 then some (n - 48)
  else if 97 ≤ n ∧ n ≤ 102 then some (n - 87)
  else if 65 ≤ n ∧ n ≤ 70 then some (n - 55)
  else none

/-- Digits in a base, most significant first, after `acc`. -/
def digitsValue (base : Nat) : Nat → List Char → Option Nat
  | acc, [] => some acc
  | acc, c :: cs =>
    match digitValue c with
    | some v => if v < base then digitsValue base (acc * base + v) cs else none
    | none => none

/-- A nonempty numeral in a base. -/
def numeral (base : Nat) (cs : List Char) : Option Nat := if cs.isEmpty then none else digitsValue base 0 cs

/-- An unsigned literal: `0x` hexadecimal or decimal (R89). -/
def parseNat : List Char → Option Nat
  | '0' :: 'x' :: cs => numeral 16 cs
  | cs => numeral 10 cs

/-- An operand: an optional leading `-` and a literal (R89). -/
def parseInt : List Char → Option Int
  | '-' :: cs => (parseNat cs).map fun n => -(n : Int)
  | cs => (parseNat cs).map fun n => (n : Int)

/-- All of a list's values, or none if one is missing. -/
def allSome {α : Type} : List (Option α) → Option (List α)
  | [] => some []
  | none :: _ => none
  | some a :: l => (allSome l).map fun r => a :: r

/-- The operand list after a mnemonic: nothing, or integers between commas. -/
def parseOperands (cs : List Char) : Option (List Int) :=
  match trimBlanks cs with
  | [] => some []
  | c :: r => allSome ((splitCommas (c :: r)).map fun f => parseInt (trimBlanks f))

/-- ASCII lower case: mnemonics are case-insensitive (R89). -/
def lowerChar (c : Char) : Char := if 65 ≤ c.toNat ∧ c.toNat ≤ 90 then Char.ofNat (c.toNat + 32) else c

/-- A line from its first word and its operands. An operand the command ignores must be omitted; `.cmd`'s missing
operands are 0 (R89). -/
def lineOf (word : List Char) (ops : List Int) : Option AsmLine :=
  if word = ['.', 'c', 'm', 'd'] then
    match ops with
    | [w] => some (.cmd w 0 0)
    | [w, a] => some (.cmd w a 0)
    | [w, a, b] => some (.cmd w a b)
    | _ => none
  else if word = ['.', 'r', 'e', 's', 'e', 't'] then (if ops = [] then some .reset else none)
  else
    let m := word.map lowerChar
    if m = ['s', 'e', 'e', 'd'] then
      match ops with
      | [a, b] => some (.seed a b)
      | _ => none
    else if m = ['j', 'u', 'm', 'p'] then
      match ops with
      | [d] => some (.jump d)
      | _ => none
    else if m = ['r', 'e', 'w', 'i', 'n', 'd'] then
      match ops with
      | [k] => some (.rewind k)
      | _ => none
    else if ops ≠ [] then none
    else if m = ['r', 'o', 'l', 'l'] then some .roll
    else if m = ['t', 'r', 'a', 'c', 'e'] then some .trace
    else if m = ['r', 'd', 's', 't', 'a', 't', 'e'] then some .rdstate
    else if m = ['r', 'd', 'i', 'n', 'c'] then some .rdinc
    else if m = ['r', 'd', 's', 't', 'e', 'p'] then some .rdstep
    else if m = ['r', 'd', 's', 't', 'a', 't'] then some .rdstat
    else if m = ['s', 't', 'e', 'p'] then some .step
    else if m = ['n', 'o', 'p'] then some .nop
    else none

/-- One line of text (R89): its words before the comment, as an assembler line that passes its check. -/
def parseLine (cs : List Char) : Option AsmLine :=
  let w := splitWord (trimBlanks (dropComment cs))
  match parseOperands w.2 with
  | none => none
  | some ops =>
    match lineOf w.1 ops with
    | none => none
    | some l => if l.wellFormed then some l else none

/-- What a line makes the host do: operands reduced with `trunc_128` (R89), pseudo-instructions expanded (R90). -/
def assembleLine : AsmLine → HostAction
  | .seed a b => .command (encode (.seed (trunc128 a) (trunc128 b)))
  | .roll => .command (encode .roll)
  | .jump d => .command (encode (.jump (trunc128 d)))
  | .trace => .command (encode .trace)
  | .rdstate => .command (encode .rdstate)
  | .rdinc => .command (encode .rdinc)
  | .rdstep => .command (encode .rdstep)
  | .rdstat => .command (encode .rdstat)
  | .rewind k => .command (encode (.jump (trunc128 (-k))))
  | .step => .command (encode .roll)
  | .nop => .command (encode .rdstat)
  | .cmd w a b => .command ⟨BitVec.ofInt 8 w, trunc128 a, trunc128 b⟩
  | .reset => .reset

/-- A program text: one action a line, none if a line is not of R89's form. -/
def assemble (lines : List (List Char)) : Option (List HostAction) :=
  allSome (lines.map fun l => (parseLine l).map assembleLine)

/-- The source's construct operation: reset, then one SEED (R135, R253). -/
def construct (seed seq : Int) : List HostAction := [assembleLine .reset, assembleLine (.seed seed seq)]

end Sys2Proof.Machine
end

