-- ==== Sys2Proof/Machine/HostBus.lean ====
section
/-! DEFINITION. How a host bus reaches the 128-bit operand and result buses under the parameter HOST_BUS_MAP (R8, R61, U9). It
is the platform's, outside the block: a command on the port is what it makes of the bus words. -/

namespace Sys2Proof.Machine

/-- The number whose bits are these, least significant first. -/
def bitsValue : List Bool → Nat
  | [] => 0
  | b :: l => b.toNat + 2 * bitsValue l

/-- The bit at a place of the bus words; a word that is not there has no bit set. -/
def wordBit (m : BusMap) (words : List Nat) (j : Nat) : Bool := (words.getD (j / m.width) 0).testBit (j % m.width)

/-- The port value that bus words carry. -/
def portValue (m : BusMap) (words : List Nat) : U128 := BitVec.ofNat 128 (bitsValue (m.place.map (wordBit m words)))

/-- The bit of a port value that stands at a place, in a transfer whose free values are those of draw `d`. A place with none is
padding, on which the spec is silent: a free value of the draw and the place, so two transfers with different draws may
differ in it. That it is the same at the same draw is the model's choice (DESIGN CHOICE, log 18). -/
def placedBit (m : BusMap) (d : Nat) (v : U128) (j : Nat) : Bool :=
  if j ∈ m.place then v.getLsbD (m.place.idxOf j) else Config.freePadding d j

/-- Word `n` of the bus words that carry a port value. -/
def busWord (m : BusMap) (d : Nat) (v : U128) (n : Nat) : Nat :=
  bitsValue ((List.range m.width).map fun k => placedBit m d v (n * m.width + k))

/-- The bus words that carry a port value. -/
def busWords (m : BusMap) (d : Nat) (v : U128) : List Nat := (List.range m.beats).map (busWord m d v)

/-- What a host bus brings to a 128-bit port. -/
def fromBus (map : Option BusMap) (words : List Nat) : U128 :=
  match map with
  | none => BitVec.ofNat 128 (words.headD 0)
  | some m => portValue m words

/-- What a host bus shows of a 128-bit port in a transfer of draw `d`. -/
def toBus (map : Option BusMap) (d : Nat) (v : U128) : List Nat :=
  match map with
  | none => [v.toNat]
  | some m => busWords m d v

/-- The command that a host presents through its bus: the command word, and the words for each operand. -/
def commandFromBus (cfg : Config) (word : U8) (a b : List Nat) : Command :=
  ⟨word, fromBus cfg.hostBusMap a, fromBus cfg.hostBusMap b⟩

/-- The response data as a host reads it through its bus. A response is taken at a draw of its own (`takeResponse`). -/
def dataOnBus (s : State) : List Nat := toBus s.cfg.hostBusMap s.drawn (portOut false s).rspData

end Sys2Proof.Machine
end

