-- ==== Sys2Proof/Safety.lean ====
section
/-! DEFINITION. What a safe run keeps: the invariant of the block after its first reset, in the parts the spec states. -/

namespace Sys2Proof.Machine

/-- INC is odd whenever SEEDED = 1 (R33), and before the first SEED nothing but reset has written STATE, INC and STEP
(R30, R35, R41); and STEP fits its width (R35). -/
def SeedingInv (s : State) : Prop :=
  (s.seeded = true → s.inc.getLsbD 0 = true) ∧ (s.seeded = false → s.state = 0 ∧ s.inc = 0 ∧ s.stepCount = 0) ∧
    wrapStep s.cfg.wStep s.stepCount = s.stepCount

/-- BUSY is 1 exactly while a command is in progress or its response waits, never both (R43, R254), and a command in
progress has at least one cycle to go (R258). -/
def HandshakeInv (s : State) : Prop :=
  s.busy = (s.answer.isSome || s.rspValid) ∧ (s.answer.isSome && s.rspValid) = false ∧
    (s.answer.isSome = true → 1 ≤ s.wait) ∧ (s.answer = none → s.wait = 0)

/-- Status code 3 is never produced (R87). -/
def StatusInv (s : State) : Prop :=
  (∀ r, s.answer = some r → r.status ≠ 3#2) ∧ (s.rspValid = true → s.rspStatus ≠ 3#2)

/-- With TRC = 0 there is no event and `trc_valid` is 0 (R88); an idle block presents none; and the events still to come
fit before the response can be taken (R256). -/
def TraceInv (s : State) : Prop :=
  (s.trc = false → s.events = [] ∧ s.trcPort = none) ∧ (s.busy = false → s.trcPort = none) ∧ s.events.length ≤ s.wait

/-- The invariant. Before the first reset it asks only that the parameters are legal (R8, R252). -/
def BlockInv (s : State) : Prop :=
  s.cfg.wellFormed = true ∧
    (s.wasReset = true → SeedingInv s ∧ HandshakeInv s ∧ StatusInv s ∧ TraceInv s)

/-- The step transform `f(x) = MUL * x + INC` (R15), with the multiplier written out (R34). -/
def lcg (inc x : U128) : U128 := 0x2360ED051FC65DA44385DF649FCCF645#128 * x + inc

/-- The state after one ROLL and its response. -/
def rollOnce (s : State) : State :=
  match transact (encode .roll) s with
  | .next t => t
  | .fault _ => s
  | .refused _ => s

/-- The read commands, which have no side effect (R195). -/
def isRead : Instr → Bool
  | .rdstate => true
  | .rdinc => true
  | .rdstep => true
  | .rdstat => true
  | .seed _ _ => false
  | .roll => false
  | .jump _ => false
  | .trace => false

/-- The commands that a list of actions issues; each gets one response (R87). -/
def commandsOf : List HostAction → List Command
  | [] => []
  | .command c :: hs => c :: commandsOf hs
  | .reset :: hs => commandsOf hs

/-- Over these edges the host holds every command it has raised, the block accepting none (R255): each edge still presents what
was on offer at the one before. -/
def HoldsOffers : Option Command → List PortIn → Prop
  | _, [] => True
  | offered, p :: ps => (offered = none ∨ p.offer = offered) ∧ HoldsOffers p.offer ps

/-- A block that can accept a command from a host that has nothing on offer. -/
def Ready (s : State) : Prop := s.wasReset = true ∧ s.busy = false ∧ s.offered = none

end Sys2Proof.Machine
end

