-- ==== Sys2Proof/Certificates/Slice0/Obligations.lean ====
section
/-! DEFINITION. The statements for the provers. Each says which rules of spec/ it states. Next states are written out
whole, so each result statement is also its instruction's frame: a field that is not named is unchanged. -/

open Sys2Proof Sys2Proof.Machine

/-! ### Encoding -/

/-- R83, R84, R85: each of the 256 words has exactly one outcome; 8 name commands, with the operands of R82, and the other
248 are illegal. -/
def Obligations.DecodeIsTotalOnTheOpcodeMap : Prop :=
  ∀ c : Command,
    decode c =
      if c.word.toNat = 1 then .instr (.seed c.a c.b)
      else if c.word.toNat = 2 then .instr .roll
      else if c.word.toNat = 3 then .instr (.jump c.a)
      else if c.word.toNat = 4 then .instr .trace
      else if c.word.toNat = 5 then .instr .rdstate
      else if c.word.toNat = 6 then .instr .rdinc
      else if c.word.toNat = 7 then .instr .rdstep
      else if c.word.toNat = 8 then .instr .rdstat
      else if 16 ≤ c.word.toNat then .illegal .reservedBits
      else .illegal .reservedOpcode

/-- Decode and encode agree for every instruction with every operand: as a transfer, as a number (word in bits 7:0, A in
bits 135:8, B in bits 263:136; the numbering above bit 7 is the model's, log 11), and back, so each instruction has one
word. -/
def Obligations.DecodeAndEncodeAgree : Prop :=
  ∀ i : Instr,
    decode (encode i) = .instr i ∧
    decodeTableWord 264
      ((encode i).word.toNat + 2 ^ 8 * (encode i).a.toNat + 2 ^ 136 * (encode i).b.toNat) = some i ∧
    ∀ c : Command, decode c = .instr i → c.word = (encode i).word ∧ decode ⟨c.word, c.a, c.b⟩ = decode (encode i)

/-- Words written out from R83 decode to the commands they stand for. -/
def Obligations.WrittenWordsDecode : Prop :=
  decode ⟨0b00000001#8, 42, 54⟩ = .instr (.seed 42 54) ∧ decode ⟨0b00000010#8, 7, 9⟩ = .instr .roll ∧
  decode ⟨0b00000011#8, 6, 1⟩ = .instr (.jump 6) ∧ decode ⟨0b00000100#8, 0, 0⟩ = .instr .trace ∧
  decode ⟨0b00001000#8, 0, 0⟩ = .instr .rdstat ∧ decode ⟨0b00000000#8, 0, 0⟩ = .illegal .reservedOpcode ∧
  decode ⟨0b00010010#8, 0, 0⟩ = .illegal .reservedBits

/-- R14, R91: an integer reaches a bus as its residue mod 2^128; a negative one as `2^128 - (|k| mod 2^128)`, or 0. -/
def Obligations.IntegersReachTheBusAsResidues : Prop :=
  ∀ k : Int,
    ((trunc128 k).toNat : Int) = k % 2 ^ 128 ∧
    (k < 0 → (trunc128 k).toNat = if k.natAbs % 2 ^ 128 = 0 then 0 else 2 ^ 128 - k.natAbs % 2 ^ 128)

/-- R90: the three pseudo-instructions and what they expand to. -/
def Obligations.PseudoInstructionsExpand : Prop :=
  (∀ k : Int, assembleLine (.rewind k) = .command ⟨0x03, trunc128 (-k), 0⟩) ∧
  assembleLine .step = .command ⟨0x02, 0, 0⟩ ∧ assembleLine .nop = .command ⟨0x08, 0, 0⟩

/-- R89: the case of a mnemonic's letters does not matter (a word that starts with `.` is a directive, log 19). -/
def Obligations.MnemonicsIgnoreCase : Prop :=
  ∀ (word : List Char) (ops : List Int), word.head? ≠ some '.' → lineOf word ops = lineOf (word.map lowerChar) ops

/-! ### The datapath -/

/-- R110, R111, R112, R113, R114: the primitives as arithmetic on unsigned integers; and STEP is reduced mod 2^W_STEP (R35). -/
def Obligations.PrimitivesAreModularArithmetic : Prop :=
  (∀ (w : Nat) (a : U128), (wrapStep w a).toNat = a.toNat % 2 ^ w) ∧ ∀ a b : U128,
    (add128 a b).toNat = (a.toNat + b.toNat) % 2 ^ 128 ∧ (mul128 a b).toNat = a.toNat * b.toNat % 2 ^ 128 ∧
    (hi64 a).toNat = a.toNat / 2 ^ 64 ∧ (lo64 a).toNat = a.toNat % 2 ^ 64 ∧ fold64 a = hi64 a ^^^ lo64 a ∧
    (top6 a).toNat = a.toNat / 2 ^ 122 ∧ (incval a).toNat = 2 * a.toNat % 2 ^ 128 + 1

/-! ### What each command does -/

/-- R132, R133, R134: word 0x01 is SEED, and SEED completes in every state and for every parameter value. (`wait` holds the
latency of R258.) -/
def Obligations.SeedConfiguresIncrementAndMixesSeed : Prop :=
  ∀ (a b : U128) (s : State),
    decode ⟨0x01#8, a, b⟩ = .instr (.seed a b) ∧
    let n := (b <<< 1) ||| 1
    let inc := match s.cfg.seedIncMode with
      | .orInto => s.inc ||| n
      | .replace => n
    let start := if s.cfg.seedClearState then 0 else s.state
    let x1 := lcg inc start
    let x2 := lcg inc (x1 + a)
    exec (.seed a b) s = .next
      { s with
        inc := inc
        state := x2
        stepCount := wrapStep s.cfg.wStep (s.stepCount + 2)
        seeded := true
        events := s.events ++ (if s.trc then [⟨.adv, x1⟩, ⟨.adv, x2⟩] else [])
        answer := some ⟨0, x2⟩
        wait := s.cfg.latSeed }

/-- R132 corner case (5): the first SEED after reset, whatever other commands came before it, gives the same registers
whatever the parameters of R133 and R134 are, and INC is `2b + 1` with bit 127 of `b` lost. -/
def Obligations.FirstSeedIgnoresTheParameters : Prop :=
  ∀ (a b : U128) (s : State), BlockInv s → s.wasReset = true → s.seeded = false →
    ∃ t, exec (.seed a b) s = .next t ∧ t.inc.toNat = 2 * (b.toNat % 2 ^ 127) + 1 ∧ t.state = lcg t.inc (t.inc + a) ∧
      t.stepCount = wrapStep s.cfg.wStep 2 ∧ t.seeded = true

/-- R137: after a first SEED, of one block or of two, two selectors give the same INC exactly when they agree in bits
126:0. -/
def Obligations.StreamsDifferByTheLow127Bits : Prop :=
  ∀ (a a' b b' : U128) (s s' t t' : State), BlockInv s → s.wasReset = true → s.seeded = false →
    BlockInv s' → s'.wasReset = true → s'.seeded = false →
    exec (.seed a b) s = .next t → exec (.seed a' b') s' = .next t' →
    (t.inc = t'.inc ↔ ∀ i < 127, b.getLsbD i = b'.getLsbD i)

/-- R152: word 0x02 is ROLL whatever the buses carry; ROLL of a seeded block completes with one ADVANCE and the permutation
of the state after it, and ROLL of an unseeded one answers NOT_SEEDED and changes nothing. -/
def Obligations.RollAdvancesAndPermutes : Prop :=
  (∀ a b : U128, decode ⟨0x02#8, a, b⟩ = .instr .roll) ∧
  (∀ s : State, s.seeded = true →
    let x := lcg s.inc s.state
    exec .roll s = .next
      { s with
        state := x
        stepCount := wrapStep s.cfg.wStep (s.stepCount + 1)
        events := s.events ++ (if s.trc then [⟨.adv, x⟩] else [])
        answer := some ⟨0, (xslrr x).setWidth 128⟩
        wait := s.cfg.latRoll }) ∧
  (∀ s : State, s.seeded = false → exec .roll s = .next { s with answer := some ⟨2, 0⟩, wait := s.cfg.latOther })

/-- R150: bit `i` of the output is bit `(i + rot) mod 64` of the XOR of the halves, `rot` being the top six bits. -/
def Obligations.OutputIsTheFoldRotatedRight : Prop :=
  ∀ (x : U128) (i : Nat), i < 64 →
    let k := (i + x.toNat / 2 ^ 122) % 64
    (xslrr x).getLsbD i = (x.getLsbD (64 + k) ^^ x.getLsbD k)

/-- R151 (2): an output is 0 exactly when the halves of the state are equal. -/
def Obligations.OutputIsZeroExactlyOnEqualHalves : Prop :=
  ∀ x : U128, xslrr x = 0 ↔ x.toNat / 2 ^ 64 = x.toNat % 2 ^ 64

/-- R172, R173: word 0x03 is JUMP with its distance on bus A; JUMP of a seeded block completes, applying the coefficients of
R171 once; JUMP of an unseeded one answers NOT_SEEDED and changes nothing. (The working registers and the draw counter are
left open after it: R46, log 10.) -/
def Obligations.JumpAppliesTheCoefficients : Prop :=
  (∀ d b : U128, decode ⟨0x03#8, d, b⟩ = .instr (.jump d)) ∧
  (∀ (d : U128) (s : State), s.seeded = true →
    let j := jumpCoef s.inc d
    let x := j.accM * s.state + j.accP
    ∃ (regs : JumpRegs) (n : Nat),
      exec (.jump d) s = .next
        { s with
          state := x
          stepCount := wrapStep s.cfg.wStep (s.stepCount + d)
          events := s.events ++ (if s.trc then [⟨.jmp, x⟩] else [])
          answer := some ⟨0, 0⟩
          wait := s.cfg.latJump
          jump := regs
          drawn := n }) ∧
  (∀ (d : U128) (s : State), s.seeded = false →
    exec (.jump d) s = .next { s with answer := some ⟨2, 0⟩, wait := s.cfg.latOther })

/-- R171: after the 128 iterations the accumulated pair is `f^d`, every bit of `d` has been used, and ITER is 128. -/
def Obligations.JumpCoefficientsAreThePower : Prop :=
  ∀ inc d x : U128,
    (jumpCoef inc d).accM * x + (jumpCoef inc d).accP = (lcg inc)^[d.toNat] x ∧
    (jumpCoef inc d).dlt = 0 ∧ (jumpCoef inc d).iter = 128

/-- R174: JUMP by `d` leaves the STATE and the STEP that `d` ROLLs leave. -/
def Obligations.JumpEqualsThatManyRolls : Prop :=
  ∀ (d : U128) (s : State), BlockInv s → s.wasReset = true → s.seeded = true →
    ∃ t, transact (encode (.jump d)) s = .next t ∧
      t.state = (rollOnce^[d.toNat] s).state ∧ t.stepCount = (rollOnce^[d.toNat] s).stepCount ∧
      t.inc = (rollOnce^[d.toNat] s).inc

/-- R175: for every integer `k`, JUMP `k` and then JUMP `-k` restore STATE and STEP exactly. -/
def Obligations.JumpBackRestoresStateAndStep : Prop :=
  ∀ (k : Int) (s : State), BlockInv s → s.wasReset = true → s.seeded = true →
    ∃ t u, exec (.jump (trunc128 k)) s = .next t ∧ exec (.jump (trunc128 (-k))) t = .next u ∧
      u.state = s.state ∧ u.stepCount = s.stepCount ∧ u.inc = s.inc ∧ u.seeded = true

/-- R176: with an odd INC every state returns to itself after 2^128 steps and multiples of it, and never sooner. -/
def Obligations.GeneratorHasFullPeriod : Prop :=
  ∀ (inc x : U128) (n : Nat), inc.getLsbD 0 = true → ((lcg inc)^[n] x = x ↔ 2 ^ 128 ∣ n)

/-- R130: ADVANCE is a bijection on STATE for every INC, odd or not. -/
def Obligations.AdvanceIsABijection : Prop :=
  ∀ s : State, Function.Bijective fun x : U128 => (advance { s with state := x }).state

/-- R193: word 0x07 is RDSTEP whatever the buses carry; it answers STEP whatever TRC is and changes nothing; after JUMP by
`-k` from STEP = 0 it answers the residue of `-k`, which reads as the signed value `-k` in the range of W_STEP bits. (That a
STEP narrower than the response is zero-extended is the model's reading: log 20.) -/
def Obligations.StepReadsBackTheSignedDistance : Prop :=
  (∀ a b : U128, decode ⟨0x07#8, a, b⟩ = .instr .rdstep) ∧
  (∀ s : State, exec .rdstep s = .next { s with answer := some ⟨0, s.stepCount⟩, wait := s.cfg.latOther }) ∧
  (∀ (k : Int) (s : State), s.seeded = true → s.stepCount = 0 →
    ∃ t u r, exec (.jump (trunc128 (-k))) s = .next t ∧ exec .rdstep t = .next u ∧ u.answer = some r ∧ r.status = 0 ∧
      r.data = wrapStep s.cfg.wStep (trunc128 (-k)) ∧
      (s.cfg.wellFormed = true → -2 ^ (s.cfg.wStep - 1) < k → k ≤ 2 ^ (s.cfg.wStep - 1) →
        signedView s.cfg.wStep r.data = -k))

/-- R190: word 0x04 is TRACE whatever the buses carry; it completes in every state, and bit 1 of the data is the old TRC,
bit 0 the new one. -/
def Obligations.TraceTogglesAndAnswersBoth : Prop :=
  (∀ a b : U128, decode ⟨0x04#8, a, b⟩ = .instr .trace) ∧
  ∀ s : State,
    exec .trace s = .next
      { s with trc := !s.trc, answer := some ⟨0, if s.trc then 2 else 1⟩, wait := s.cfg.latOther }

/-- R191, R192, R194: words 0x05, 0x06 and 0x08 are these reads whatever the buses carry; each completes in every state,
answers its register or the STATUS view of R40, and changes no register; and before the first SEED INC is 0, the only time
it is even. -/
def Obligations.ReadsAnswerAndChangeNothing : Prop :=
  (∀ a b : U128, decode ⟨0x05#8, a, b⟩ = .instr .rdstate ∧ decode ⟨0x06#8, a, b⟩ = .instr .rdinc ∧
    decode ⟨0x08#8, a, b⟩ = .instr .rdstat) ∧
  (∀ s : State,
    exec .rdstate s = .next { s with answer := some ⟨0, s.state⟩, wait := s.cfg.latOther } ∧
    exec .rdinc s = .next { s with answer := some ⟨0, s.inc⟩, wait := s.cfg.latOther } ∧
    exec .rdstat s = .next
      { s with
        answer := some ⟨0, BitVec.ofNat 128 ((if s.trc then 2 else 0) + (if s.seeded then 1 else 0))⟩
        wait := s.cfg.latOther }) ∧
  (∀ s : State, BlockInv s → s.wasReset = true →
    (s.seeded = false → s.inc = 0) ∧ (s.inc.getLsbD 0 = false ↔ s.seeded = false))

/-! ### Errors -/

/-- R223: a command that answers an error changes nothing but its response, whose data is 0; and once the response is taken
the block accepts the next command, with the registers it had. -/
def Obligations.ErrorsHaveNoEffect : Prop :=
  ∀ (c : Command) (s t : State) (r : Response),
    runCommand c s = .next t → t.answer = some r → r.status ≠ 0 →
    t = { s with answer := some ⟨r.status, 0⟩, wait := s.cfg.latOther } ∧
    (s.wasReset = true → ∃ u, transact c s = .next u ∧ (portOut false u).cmdReady = true ∧ u.taken = s.taken ++ [⟨r.status, 0⟩] ∧
      u.traceLog = s.traceLog ++ s.events ∧ u.state = s.state ∧ u.inc = s.inc ∧ u.stepCount = s.stepCount ∧
      u.trc = s.trc ∧ u.seeded = s.seeded)

/-- R221: a word with RSV ≠ 0, or with OPC 0x0 or 0x9 to 0xF, answers `(1, 0)` whatever SEEDED, TRC and the operands
are, and changes nothing. -/
def Obligations.IllegalWordsAnswerIllegalCommand : Prop :=
  ∀ (c : Command) (s : State), (c.word.toNat / 16 ≠ 0 ∨ c.word.toNat % 16 = 0 ∨ 9 ≤ c.word.toNat % 16) →
    runCommand c s = .next { s with answer := some ⟨1, 0⟩, wait := s.cfg.latOther }

/-- R222: every command answers; status 2 answers exactly an unseeded ROLL or JUMP, status 1 exactly the illegal words (R221),
so ILLEGAL_COMMAND comes first (R226), and status 3 answers nothing. -/
def Obligations.EachStatusHasItsOneCause : Prop :=
  ∀ (c : Command) (s : State), ∃ t r, runCommand c s = .next t ∧ t.answer = some r ∧ r.status ≠ 3 ∧
    (r.status = 1 ↔ c.word.toNat = 0 ∨ 9 ≤ c.word.toNat) ∧
    (r.status = 2 ↔ (c.word.toNat = 2 ∨ c.word.toNat = 3) ∧ s.seeded = false) ∧
    (r.status ≠ 0 → r.data = 0)

/-! ### The ports and the step -/

/-- An edge that takes a transfer whose word decodes to `i` (R254) runs `exec i` on the state with BUSY = 1 and nothing on
offer, and then presents the trace port. That the whole effect is at this edge is the model's reading (log 1), and so is
which cycle an event stands in (log 5). -/
def Obligations.StepRunsTheDecodedInstruction : Prop :=
  ∀ (s : State) (p : PortIn) (rest : List HostEvent) (i : Instr),
    s.inputs = .edge p :: rest → p.rst = false → p.cmdValid = true → p.commandChanging = false → p.agents ≤ 1 →
    s.wasReset = true → s.busy = false → s.rspValid = false → (s.offered = none ∨ s.offered = some p.command) →
    decode p.command = .instr i →
    step s = afterNext presentTrace (exec i (acceptCommand (sampleTrace p (withInputs rest s))))

/-- R221, R223 at the port: the same edge with an illegal word, raised at this edge or held since an earlier one, answers
`(1, 0)` and leaves the registers alone. -/
def Obligations.StepAnswersIllegalWords : Prop :=
  ∀ (s : State) (p : PortIn) (rest : List HostEvent) (why : IllegalWord),
    BlockInv s → s.wasReset = true → s.busy = false → (s.offered = none ∨ s.offered = some p.command) →
    s.inputs = .edge p :: rest → p.rst = false → p.cmdValid = true → p.commandChanging = false →
    p.agents ≤ 1 → decode p.command = .illegal why →
    ∃ t, step s = .next t ∧ t.answer = some ⟨1, 0⟩ ∧ t.wait = s.cfg.latOther ∧ t.busy = true ∧ t.offered = none ∧
      t.trcPort = none ∧ t.events = [] ∧ t.state = s.state ∧ t.inc = s.inc ∧ t.stepCount = s.stepCount ∧
      t.trc = s.trc ∧ t.seeded = s.seeded

/-- R251: an edge with `rst = 1` sets every register to its reset value from any state and abandons a command in progress
with its response and its events; only the working registers are left open (R46). The parameters and the host's side are not
the block's to reset: that the host's records do not change at this edge is the model's reading (log 7, log 13), and so is
that what it offers it must go on offering (log 8). -/
def Obligations.ResetEdgeClearsEverything : Prop :=
  ∀ (s : State) (p : PortIn) (rest : List HostEvent),
    s.inputs = .edge p :: rest → p.rst = true → p.agents ≤ 1 → (s.offered = none ∨ p.offer = s.offered) →
    ∃ t, step s = .next t ∧
      t = { State.reset with
            jump := t.jump
            drawn := t.drawn
            offered := p.offer
            cfg := s.cfg
            inputs := rest
            taken := s.taken
            traceLog := s.traceLog }

/-- R250: while `rst` is 1 no valid or ready is driven, in any state; after a reset edge `cmd_ready` is 1 as soon as `rst` is
0, which is the model's reading (log 6), and nothing is valid. -/
def Obligations.ResetDrivesThePorts : Prop :=
  (∀ s : State, (portOut true s).cmdReady = false ∧ (portOut true s).rspValid = false ∧ (portOut true s).trcValid = false) ∧
  ∀ (s t : State) (p : PortIn) (rest : List HostEvent), s.inputs = .edge p :: rest → p.rst = true → step s = .next t →
    (portOut false t).cmdReady = true ∧ (portOut false t).rspValid = false ∧ (portOut false t).trcValid = false

/-- R254: a valid response is held, with `cmd_ready = 0`, at every edge at which the host does not take it. -/
def Obligations.ResponseIsHeldUntilTaken : Prop :=
  ∀ (s : State) (p : PortIn) (rest : List HostEvent),
    BlockInv s → s.wasReset = true → s.rspValid = true → s.inputs = .edge p :: rest → p.rst = false → p.rspReady = false →
    p.agents ≤ 1 → (s.offered = none ∨ p.offer = s.offered) →
    ∃ t, step s = .next t ∧ (portOut false s).cmdReady = false ∧ (portOut false t).cmdReady = false ∧
      (portOut false t).rspValid = true ∧ (portOut false t).rspStatus = (portOut false s).rspStatus ∧
      (portOut false t).rspData = (portOut false s).rspData ∧ t.taken = s.taken ∧
      t.state = s.state ∧ t.inc = s.inc ∧ t.stepCount = s.stepCount ∧ t.trc = s.trc ∧ t.seeded = s.seeded

/-- R254, R228: taking the response records it, frees the port from the next cycle, and changes no register of R30. -/
def Obligations.TakingTheResponseFreesThePort : Prop :=
  ∀ (s : State) (p : PortIn) (rest : List HostEvent),
    BlockInv s → s.wasReset = true → s.rspValid = true → s.inputs = .edge p :: rest → p.rst = false → p.rspReady = true →
    p.agents ≤ 1 → (s.offered = none ∨ p.offer = s.offered) →
    ∃ t, step s = .next t ∧ (portOut false t).cmdReady = true ∧ (portOut false t).rspValid = false ∧
      t.taken = s.taken ++ [⟨(portOut false s).rspStatus, (portOut false s).rspData⟩] ∧ t.offered = p.offer ∧
      t.state = s.state ∧ t.inc = s.inc ∧ t.stepCount = s.stepCount ∧ t.trc = s.trc ∧ t.seeded = s.seeded

/-- R234: with no command pending the block holds every register. Of a stopped clock or lost power the spec says nothing; the
model refuses both (U12, log 16). -/
def Obligations.IdleBlockHoldsEveryRegister : Prop :=
  (∀ (s : State) (p : PortIn) (rest : List HostEvent),
    BlockInv s → Ready s → s.inputs = .edge p :: rest → p.rst = false → p.cmdValid = false → p.agents ≤ 1 →
    step s = .next (withInputs rest s)) ∧
  (∀ (s : State) (rest : List HostEvent),
    (s.inputs = .clockStops :: rest → step s = .refused .clockStopped) ∧
    (s.inputs = .powerLost :: rest → step s = .refused .powerLost))

/-- R255, U3: a command raised at an edge that does not accept it, because the block is busy or `rst` is 1, must still be there,
unchanged, at the next edge, whether either edge is a reset edge or not (the model's reading: log 8); and a command raised
at the edge that accepts it, or held until it, must not change in that cycle (the model's flag: log 21). Both violations
are refused. -/
def Obligations.BrokenHandshakeIsRefused : Prop :=
  (∀ (s : State) (p q : PortIn) (rest : List HostEvent) (t : State),
    (p.rst = true ∨ s.wasReset = true ∧ s.busy = true) → s.inputs = .edge p :: .edge q :: rest → p.cmdValid = true →
    q.agents ≤ 1 → step s = .next t → (q.cmdValid = false ∨ q.command ≠ p.command) →
    step t = .refused .commandWithdrawn) ∧
  (∀ (s : State) (p : PortIn) (rest : List HostEvent),
    s.wasReset = true → s.busy = false → (s.offered = none ∨ s.offered = some p.command) →
    s.inputs = .edge p :: rest → p.rst = false → p.cmdValid = true → p.agents ≤ 1 →
    p.commandChanging = true → step s = .refused .commandChangedAtEdge)

/-- R72, R252, U1, U2: an unarbitrated port (log 14) and a command before the first reset (log 15) are refused, the command at
the transaction level too. -/
def Obligations.UnmodelledConfigurationsAreRefused : Prop :=
  ∀ (s : State) (p : PortIn) (rest : List HostEvent), s.inputs = .edge p :: rest →
    (2 ≤ p.agents → step s = .refused .unarbitratedPort) ∧
    (p.agents ≤ 1 → s.offered = none → s.wasReset = false → p.rst = false → p.cmdValid = true →
      step s = .refused .commandBeforeReset) ∧
    ∀ (c : Command) (hs : List HostAction), s.wasReset = false →
      runActions (.command c :: hs) s = .refused .commandBeforeReset

/-- R259, R258: the response of a command in progress is valid after exactly `wait` more edges and at none before, whatever
the latency and whatever one host drives meanwhile without a reset: `rsp_ready` at 1 or 0, its next command raised and held.
(That a latency is one constant count, and where it is counted from: logs 4 and 5.) -/
def Obligations.ResponseArrivesAfterTheLatency : Prop :=
  ∀ (s : State) (r : Response) (ps : List PortIn) (rest : List HostEvent),
    BlockInv s → s.wasReset = true → s.answer = some r → ps.length = s.wait → s.inputs = ps.map .edge ++ rest →
    (∀ p ∈ ps, p.rst = false ∧ p.agents ≤ 1) → HoldsOffers s.offered ps →
    (∀ k < s.wait, ∃ u, Host.Core.run core k s = .next u ∧ u.rspValid = false ∧ u.busy = true) ∧
    ∃ t, Host.Core.run core s.wait s = .next t ∧ t.rspValid = true ∧ t.rspStatus = r.status ∧ t.rspData = r.data ∧
      t.busy = true ∧ t.inputs = rest

/-- R80, R87, R88: what the block drives after its first reset with `rst` = 0: ready exactly when it is not busy; the response
it holds; the event in `trcPort` with tag 1 for ADV and 2 for JMP; and no event when there is none, so never while
TRC = 0. -/
def Obligations.PortsShowTheBlock : Prop :=
  ∀ s : State, s.wasReset = true →
    (portOut false s).cmdReady = !s.busy ∧ (portOut false s).rspValid = s.rspValid ∧
    (s.rspValid = true → (portOut false s).rspStatus = s.rspStatus ∧ (portOut false s).rspData = s.rspData) ∧
    (∀ e, s.trcPort = some e → (portOut false s).trcValid = true ∧ (portOut false s).trcState = e.state ∧
      (e.tag = .adv → (portOut false s).trcTag = 1) ∧ (e.tag = .jmp → (portOut false s).trcTag = 2)) ∧
    (s.trcPort = none → (portOut false s).trcValid = false) ∧
    (BlockInv s → s.trc = false → (portOut false s).trcValid = false)

/-- R61: for every legal HOST_BUS_MAP, bit `i` of a value stands at its place of the bus words, and the block sees on its
ports exactly the operands that the host sent through the bus, whatever the padding is. (The form of the map is the model's:
log 18.) -/
def Obligations.BusMapCarriesEveryValue : Prop :=
  (∀ (m : BusMap) (d : Nat) (v : U128) (i p : Nat), m.wellFormed = true → m.place[i]? = some p →
    ((busWords m d v).getD (p / m.width) 0).testBit (p % m.width) = v.getLsbD i) ∧
  ∀ (cfg : Config) (word : U8) (d d' : Nat) (a b : U128), cfg.wellFormed = true →
    commandFromBus cfg word (toBus cfg.hostBusMap d a) (toBus cfg.hostBusMap d' b) = ⟨word, a, b⟩

/-- R256: when a response can be taken every trace event of its command has been presented. -/
def Obligations.EventsComeBeforeTheResponseIsTaken : Prop :=
  ∀ s t : State, BlockInv s → s.wasReset = true → step s = .next t → t.taken ≠ s.taken →
    s.rspValid = true ∧ s.events = [] ∧ t.events = [] ∧ t.trcPort = none

/-- R256, R88: at an edge that accepts nothing the observer records exactly the event on the port, if it samples, and the
next event still to come takes the port for one cycle or the port is empty; no event is repeated, dropped or reordered. -/
def Obligations.TraceEventsGoOutOnePerCycle : Prop :=
  ∀ (s t : State) (p : PortIn) (rest : List HostEvent),
    s.wasReset = true → s.inputs = .edge p :: rest → p.rst = false → (p.cmdValid = false ∨ s.busy = true) →
    step s = .next t →
    t.traceLog = s.traceLog ++ (if p.traceSampled then s.trcPort.toList else []) ∧
    ((t.trcPort = none ∧ t.events = s.events) ∨ ∃ e, t.trcPort = some e ∧ s.events = e :: t.events)

/-- R256: whether the observer samples an edge changes nothing but its own record. -/
def Obligations.MissedEventsChangeNothingElse : Prop :=
  ∀ (s : State) (p : PortIn) (rest : List HostEvent) (b : Bool),
    afterNext (fun t => { t with traceLog := [] }) (step (withInputs (.edge p :: rest) s)) =
      afterNext (fun t => { t with traceLog := [] }) (step (withInputs (.edge { p with traceSampled := b } :: rest) s))

/-- U10: an edge that finds a response with the reserved status code on the port faults. (Under the invariant none does:
`NoStepFaults`.) -/
def Obligations.ReservedStatusIsAFault : Prop :=
  ∀ (s : State) (p : PortIn) (rest : List HostEvent),
    s.wasReset = true → s.rspValid = true → s.rspStatus = 3 → s.busy = true → s.inputs = .edge p :: rest →
    p.rst = false → p.agents ≤ 1 → (s.offered = none ∨ p.offer = s.offered) → step s = .fault .reservedStatus

/-! ### Invariants and whole-machine rules -/

/-- The invariant holds right after reset. -/
def Obligations.ResetMeetsTheInvariant : Prop := BlockInv State.reset ∧ Ready State.reset

/-- R33, R35, R43, R87, R88, R254: every step keeps the invariant: INC is odd whenever SEEDED = 1, STEP fits W_STEP bits, BUSY covers exactly the command
in progress and its waiting response, status 3 never stands, and no event exists with TRC = 0. -/
def Obligations.EveryStepKeepsTheInvariant : Prop :=
  ∀ s t : State, BlockInv s → step s = .next t → BlockInv t

/-- U10: no step of a block that meets the invariant after its reset ends in a fault. -/
def Obligations.NoStepFaults : Prop :=
  ∀ (s : State) (f : Fault), BlockInv s → s.wasReset = true → step s ≠ .fault f

/-- R30, R41: after the first reset only reset, or the command the table names, changes a register. That it does so at the edge
that accepts the command is the model's reading (log 1). -/
def Obligations.OnlyTheNamedCommandsWriteRegisters : Prop :=
  ∀ s t : State, s.wasReset = true → step s = .next t →
    (∃ p rest, s.inputs = .edge p :: rest ∧ p.rst = true) ∨
    (∃ p rest i, s.inputs = .edge p :: rest ∧ p.cmdValid = true ∧ s.busy = false ∧ decode p.command = .instr i ∧
      (t.inc ≠ s.inc → ∃ a b, i = .seed a b) ∧ (t.seeded ≠ s.seeded → (∃ a b, i = .seed a b) ∧ t.seeded = true) ∧
      (t.trc ≠ s.trc → i = .trace) ∧
      (t.state ≠ s.state ∨ t.stepCount ≠ s.stepCount →
        (∃ a b, i = .seed a b) ∨ (i = .roll ∧ s.seeded = true) ∨ (∃ d, i = .jump d) ∧ s.seeded = true)) ∨
    (t.state = s.state ∧ t.inc = s.inc ∧ t.stepCount = s.stepCount ∧ t.trc = s.trc ∧ t.seeded = s.seeded)

/-- No step writes a parameter. That the parameters of R8 are state which nothing writes is the model's reading (log 3). -/
def Obligations.NoStepWritesAParameter : Prop :=
  ∀ s t : State, step s = .next t → t.cfg = s.cfg

/-! ### Transactions and programs -/

/-- R66, R67, R254, R259: the edges by which a host issues one command to a ready block, waits out its latency and takes the
response are one atomic transaction, for every latency: the same registers, the response recorded and every event seen. (The
exact count of edges rests on logs 4 and 5.) -/
def Obligations.HandshakeIsOneTransaction : Prop :=
  ∀ (s : State) (c : Command) (rest : List HostEvent), BlockInv s → Ready s →
    s.inputs = driveCommand (commandLatency c s) c ++ rest →
    Host.Core.run core (commandLatency c s + 2) s = transact c (withInputs rest s)

/-- R66, R260: a program run edge by edge at the ports ends in the state of its run at the transaction level. The model's
choices it rests on: the exact count of edges of a command (logs 4 and 5), a command accepted at the first edge after a
reset edge (log 6), and a list that ends in `.reset` run whole, on which R260 is silent (log 23). -/
def Obligations.ScriptRunsTheProgram : Prop :=
  ∀ (s : State) (hs : List HostAction), BlockInv s → Ready s →
    Host.Core.run core (script hs s).length (withInputs (script hs s) s) =
      runActions hs (withInputs [] s)

/-- R87: after the first reset a program's every command gets exactly one response, and no program stops. -/
def Obligations.EveryCommandGetsOneResponse : Prop :=
  ∀ (hs : List HostAction) (s : State), s.wasReset = true →
    ∃ t l, runActions hs s = .next t ∧ t.taken = s.taken ++ l ∧ l.length = (commandsOf hs).length ∧
      ∀ r ∈ l, r.status ≠ 3

/-- R195: a read inserted anywhere in a command sequence adds its own response and changes no other response, no trace event
and no register. -/
def Obligations.ReadsCanBeInsertedAnywhere : Prop :=
  ∀ (s : State) (pre post : List HostAction) (i : Instr), BlockInv s → Ready s → isRead i = true →
    ∃ t u before r after,
      runActions (pre ++ .command (encode i) :: post) s = .next t ∧ runActions (pre ++ post) s = .next u ∧
      t.taken = s.taken ++ before ++ [r] ++ after ∧ u.taken = s.taken ++ before ++ after ∧
      before.length = (commandsOf pre).length ∧ t.traceLog = u.traceLog ∧
      t.state = u.state ∧ t.inc = u.inc ∧ t.stepCount = u.stepCount ∧ t.trc = u.trc ∧ t.seeded = u.seeded

/-- R37: the value of TRC changes no register but itself, no response's status, and no response's data but that of TRACE and
RDSTAT. -/
def Obligations.TraceControlDoesNotInterfere : Prop :=
  ∀ (s : State) (b : Bool) (hs : List HostAction), s.wasReset = true →
    ∃ t u l m, runActions hs s = .next t ∧ runActions hs { s with trc := b } = .next u ∧
      t.state = u.state ∧ t.inc = u.inc ∧ t.stepCount = u.stepCount ∧ t.seeded = u.seeded ∧
      t.taken = s.taken ++ l ∧ u.taken = s.taken ++ m ∧ l.map Response.status = m.map Response.status ∧
      ∀ (n : Nat) (c : Command), (commandsOf hs)[n]? = some c → decode c ≠ .instr .trace → decode c ≠ .instr .rdstat →
        l[n]? = m[n]?

/-- R48: STATE, INC and SEEDED, with the parameters, fix every later STATE, INC and SEEDED and every later response but
those of TRACE, RDSTAT and RDSTEP, whatever STEP, TRC and everything else hold. -/
def Obligations.GenerationDependsOnStateAndIncAlone : Prop :=
  ∀ (s s' : State) (hs : List HostAction), s.wasReset = true → s'.wasReset = true →
    s.state = s'.state → s.inc = s'.inc → s.seeded = s'.seeded → s.cfg = s'.cfg →
    ∃ t t' l l', runActions hs s = .next t ∧ runActions hs s' = .next t' ∧
      t.state = t'.state ∧ t.inc = t'.inc ∧ t.seeded = t'.seeded ∧
      t.taken = s.taken ++ l ∧ t'.taken = s'.taken ++ l' ∧ l.length = l'.length ∧
      ∀ (n : Nat) (c : Command), (commandsOf hs)[n]? = some c → decode c ≠ .instr .trace → decode c ≠ .instr .rdstat →
        decode c ≠ .instr .rdstep → l[n]? = l'[n]?

/-- R136, R251: reset erases the past: two blocks with the same parameters, reset and then given the same commands, give the
same responses, the same trace events and the same registers, whatever they held or were doing before. -/
def Obligations.ResetErasesThePast : Prop :=
  ∀ (s s' : State) (hs : List HostAction), s.cfg = s'.cfg →
    ∃ t t' l e, runActions (.reset :: hs) s = .next t ∧ runActions (.reset :: hs) s' = .next t' ∧
      t.taken = s.taken ++ l ∧ t'.taken = s'.taken ++ l ∧ t.traceLog = s.traceLog ++ e ∧
      t'.traceLog = s'.traceLog ++ e ∧
      t.state = t'.state ∧ t.inc = t'.inc ∧ t.stepCount = t'.stepCount ∧ t.trc = t'.trc ∧ t.seeded = t'.seeded

/-- R135, R253: construction, reset and then one SEED, leaves a seeded block from any state, one before the first reset
included, and answers its STATE. -/
def Obligations.ConstructionSeedsTheBlock : Prop :=
  ∀ (seed seq : Int) (s : State), ∃ t, runActions (construct seed seq) s = .next t ∧ t.seeded = true ∧
    t.inc.toNat = 2 * ((trunc128 seq).toNat % 2 ^ 127) + 1 ∧ t.state = lcg t.inc (t.inc + trunc128 seed) ∧
    t.stepCount = wrapStep s.cfg.wStep 2 ∧ t.taken = s.taken ++ [⟨0, t.state⟩]
end

