-- ==== Sys2Proof/Laws/State.lean ====
section
/-! SUPPORT. For each operation on State, what every field is after it. The lemmas are simp lemmas, so no later proof unfolds
a record update. -/

namespace Sys2Proof.Machine

/-- R87: answering sets the pending response and its latency, nothing else. -/
@[simp] theorem respond_fields (lat : Nat) (st : U2) (d : U128) (s : State) :
    (respond lat st d s).state = s.state ∧ (respond lat st d s).inc = s.inc ∧
    (respond lat st d s).stepCount = s.stepCount ∧ (respond lat st d s).trc = s.trc ∧
    (respond lat st d s).seeded = s.seeded ∧ (respond lat st d s).rspValid = s.rspValid ∧
    (respond lat st d s).rspStatus = s.rspStatus ∧ (respond lat st d s).rspData = s.rspData ∧
    (respond lat st d s).busy = s.busy ∧ (respond lat st d s).jump = s.jump ∧
    (respond lat st d s).events = s.events ∧ (respond lat st d s).trcPort = s.trcPort ∧
    (respond lat st d s).wasReset = s.wasReset ∧ (respond lat st d s).offered = s.offered ∧
    (respond lat st d s).cfg = s.cfg ∧ (respond lat st d s).inputs = s.inputs ∧
    (respond lat st d s).taken = s.taken ∧ (respond lat st d s).traceLog = s.traceLog ∧
    (respond lat st d s).drawn = s.drawn ∧ (respond lat st d s).answer = some ⟨st, d⟩ ∧
    (respond lat st d s).wait = lat :=
  ⟨rfl, rfl, rfl, rfl, rfl, rfl, rfl, rfl, rfl, rfl, rfl, rfl, rfl, rfl, rfl, rfl, rfl, rfl, rfl, rfl, rfl⟩

/-- R223: an error changes no register. -/
@[simp] theorem raiseError_fields (e : ErrorCause) (s : State) :
    (raiseError e s).state = s.state ∧ (raiseError e s).inc = s.inc ∧ (raiseError e s).stepCount = s.stepCount ∧
    (raiseError e s).trc = s.trc ∧ (raiseError e s).seeded = s.seeded ∧ (raiseError e s).rspValid = s.rspValid ∧
    (raiseError e s).rspStatus = s.rspStatus ∧ (raiseError e s).rspData = s.rspData ∧
    (raiseError e s).busy = s.busy ∧ (raiseError e s).jump = s.jump ∧ (raiseError e s).events = s.events ∧
    (raiseError e s).trcPort = s.trcPort ∧ (raiseError e s).wasReset = s.wasReset ∧
    (raiseError e s).offered = s.offered ∧ (raiseError e s).cfg = s.cfg ∧ (raiseError e s).inputs = s.inputs ∧
    (raiseError e s).taken = s.taken ∧ (raiseError e s).traceLog = s.traceLog ∧ (raiseError e s).drawn = s.drawn ∧
    (raiseError e s).answer = some ⟨errorCode e, 0⟩ ∧ (raiseError e s).wait = s.cfg.latOther :=
  ⟨rfl, rfl, rfl, rfl, rfl, rfl, rfl, rfl, rfl, rfl, rfl, rfl, rfl, rfl, rfl, rfl, rfl, rfl, rfl, rfl, rfl⟩

/-- R13, R88: at most one event, and only when TRC = 1. -/
@[simp] theorem emitTrace_fields (g : TraceTag) (v : U128) (s : State) :
    (emitTrace g v s).state = s.state ∧ (emitTrace g v s).inc = s.inc ∧ (emitTrace g v s).stepCount = s.stepCount ∧
    (emitTrace g v s).trc = s.trc ∧ (emitTrace g v s).seeded = s.seeded ∧ (emitTrace g v s).rspValid = s.rspValid ∧
    (emitTrace g v s).rspStatus = s.rspStatus ∧ (emitTrace g v s).rspData = s.rspData ∧
    (emitTrace g v s).busy = s.busy ∧ (emitTrace g v s).jump = s.jump ∧ (emitTrace g v s).answer = s.answer ∧
    (emitTrace g v s).wait = s.wait ∧ (emitTrace g v s).trcPort = s.trcPort ∧
    (emitTrace g v s).wasReset = s.wasReset ∧ (emitTrace g v s).offered = s.offered ∧ (emitTrace g v s).cfg = s.cfg ∧
    (emitTrace g v s).inputs = s.inputs ∧ (emitTrace g v s).taken = s.taken ∧
    (emitTrace g v s).traceLog = s.traceLog ∧ (emitTrace g v s).drawn = s.drawn ∧
    (emitTrace g v s).events = s.events ++ (if s.trc then [⟨g, v⟩] else []) :=
  by unfold emitTrace; cases h : s.trc <;> simp [h]

/-- U5: only the response registers become free. -/
@[simp] theorem openResponseRegs_fields (s : State) :
    (openResponseRegs s).state = s.state ∧ (openResponseRegs s).inc = s.inc ∧
    (openResponseRegs s).stepCount = s.stepCount ∧ (openResponseRegs s).trc = s.trc ∧
    (openResponseRegs s).seeded = s.seeded ∧ (openResponseRegs s).rspValid = s.rspValid ∧
    (openResponseRegs s).busy = s.busy ∧ (openResponseRegs s).jump = s.jump ∧
    (openResponseRegs s).answer = s.answer ∧ (openResponseRegs s).wait = s.wait ∧
    (openResponseRegs s).events = s.events ∧ (openResponseRegs s).trcPort = s.trcPort ∧
    (openResponseRegs s).wasReset = s.wasReset ∧ (openResponseRegs s).offered = s.offered ∧
    (openResponseRegs s).cfg = s.cfg ∧ (openResponseRegs s).inputs = s.inputs ∧
    (openResponseRegs s).taken = s.taken ∧ (openResponseRegs s).traceLog = s.traceLog ∧
    (openResponseRegs s).rspStatus = Config.freeRspStatus s.drawn ∧
    (openResponseRegs s).rspData = Config.freeRspData s.drawn ∧ (openResponseRegs s).drawn = s.drawn + 1 :=
  ⟨rfl, rfl, rfl, rfl, rfl, rfl, rfl, rfl, rfl, rfl, rfl, rfl, rfl, rfl, rfl, rfl, rfl, rfl, rfl, rfl, rfl⟩

/-- U4: only the working registers become free. -/
@[simp] theorem openJumpRegs_fields (s : State) :
    (openJumpRegs s).state = s.state ∧ (openJumpRegs s).inc = s.inc ∧ (openJumpRegs s).stepCount = s.stepCount ∧
    (openJumpRegs s).trc = s.trc ∧ (openJumpRegs s).seeded = s.seeded ∧ (openJumpRegs s).rspValid = s.rspValid ∧
    (openJumpRegs s).rspStatus = s.rspStatus ∧ (openJumpRegs s).rspData = s.rspData ∧
    (openJumpRegs s).busy = s.busy ∧ (openJumpRegs s).answer = s.answer ∧ (openJumpRegs s).wait = s.wait ∧
    (openJumpRegs s).events = s.events ∧ (openJumpRegs s).trcPort = s.trcPort ∧
    (openJumpRegs s).wasReset = s.wasReset ∧ (openJumpRegs s).offered = s.offered ∧ (openJumpRegs s).cfg = s.cfg ∧
    (openJumpRegs s).inputs = s.inputs ∧ (openJumpRegs s).taken = s.taken ∧ (openJumpRegs s).traceLog = s.traceLog ∧
    (openJumpRegs s).drawn = s.drawn + 1 :=
  ⟨rfl, rfl, rfl, rfl, rfl, rfl, rfl, rfl, rfl, rfl, rfl, rfl, rfl, rfl, rfl, rfl, rfl, rfl, rfl, rfl⟩

/-- R130: STATE, STEP and at most one ADV event. -/
@[simp] theorem advance_fields (s : State) :
    (advance s).inc = s.inc ∧ (advance s).trc = s.trc ∧ (advance s).seeded = s.seeded ∧
    (advance s).rspValid = s.rspValid ∧ (advance s).rspStatus = s.rspStatus ∧ (advance s).rspData = s.rspData ∧
    (advance s).busy = s.busy ∧ (advance s).jump = s.jump ∧ (advance s).answer = s.answer ∧
    (advance s).wait = s.wait ∧ (advance s).trcPort = s.trcPort ∧ (advance s).wasReset = s.wasReset ∧
    (advance s).offered = s.offered ∧ (advance s).cfg = s.cfg ∧ (advance s).inputs = s.inputs ∧
    (advance s).taken = s.taken ∧ (advance s).traceLog = s.traceLog ∧ (advance s).drawn = s.drawn ∧
    (advance s).state = add128 (mul128 Config.MUL s.state) s.inc ∧
    (advance s).stepCount = wrapStep s.cfg.wStep (s.stepCount + 1) ∧
    (advance s).events = s.events ++ (if s.trc then [⟨.adv, add128 (mul128 Config.MUL s.state) s.inc⟩] else []) :=
  by simp [advance]

/-- R133, R134. -/
@[simp] theorem seedPrepare_fields (b : U128) (s : State) :
    (seedPrepare b s).stepCount = s.stepCount ∧ (seedPrepare b s).trc = s.trc ∧ (seedPrepare b s).seeded = s.seeded ∧
    (seedPrepare b s).rspValid = s.rspValid ∧ (seedPrepare b s).rspStatus = s.rspStatus ∧
    (seedPrepare b s).rspData = s.rspData ∧ (seedPrepare b s).busy = s.busy ∧ (seedPrepare b s).jump = s.jump ∧
    (seedPrepare b s).answer = s.answer ∧ (seedPrepare b s).wait = s.wait ∧ (seedPrepare b s).events = s.events ∧
    (seedPrepare b s).trcPort = s.trcPort ∧ (seedPrepare b s).wasReset = s.wasReset ∧
    (seedPrepare b s).offered = s.offered ∧ (seedPrepare b s).cfg = s.cfg ∧ (seedPrepare b s).inputs = s.inputs ∧
    (seedPrepare b s).taken = s.taken ∧ (seedPrepare b s).traceLog = s.traceLog ∧ (seedPrepare b s).drawn = s.drawn ∧
    (seedPrepare b s).inc = seedInc s.cfg.seedIncMode s.inc b ∧
    (seedPrepare b s).state = seedStart s.cfg.seedClearState s.state :=
  ⟨rfl, rfl, rfl, rfl, rfl, rfl, rfl, rfl, rfl, rfl, rfl, rfl, rfl, rfl, rfl, rfl, rfl, rfl, rfl, rfl, rfl⟩

/-- R132 step 3. -/
@[simp] theorem seedAdd_fields (a : U128) (s : State) :
    (seedAdd a s).inc = s.inc ∧ (seedAdd a s).stepCount = s.stepCount ∧ (seedAdd a s).trc = s.trc ∧
    (seedAdd a s).seeded = s.seeded ∧ (seedAdd a s).rspValid = s.rspValid ∧ (seedAdd a s).rspStatus = s.rspStatus ∧
    (seedAdd a s).rspData = s.rspData ∧ (seedAdd a s).busy = s.busy ∧ (seedAdd a s).jump = s.jump ∧
    (seedAdd a s).answer = s.answer ∧ (seedAdd a s).wait = s.wait ∧ (seedAdd a s).events = s.events ∧
    (seedAdd a s).trcPort = s.trcPort ∧ (seedAdd a s).wasReset = s.wasReset ∧ (seedAdd a s).offered = s.offered ∧
    (seedAdd a s).cfg = s.cfg ∧ (seedAdd a s).inputs = s.inputs ∧ (seedAdd a s).taken = s.taken ∧
    (seedAdd a s).traceLog = s.traceLog ∧ (seedAdd a s).drawn = s.drawn ∧ (seedAdd a s).state = add128 s.state a :=
  ⟨rfl, rfl, rfl, rfl, rfl, rfl, rfl, rfl, rfl, rfl, rfl, rfl, rfl, rfl, rfl, rfl, rfl, rfl, rfl, rfl, rfl⟩

/-- R171: the circuit writes its working registers only. -/
@[simp] theorem runJumpCircuit_fields (d : U128) (s : State) :
    (runJumpCircuit d s).state = s.state ∧ (runJumpCircuit d s).inc = s.inc ∧
    (runJumpCircuit d s).stepCount = s.stepCount ∧ (runJumpCircuit d s).trc = s.trc ∧
    (runJumpCircuit d s).seeded = s.seeded ∧ (runJumpCircuit d s).rspValid = s.rspValid ∧
    (runJumpCircuit d s).rspStatus = s.rspStatus ∧ (runJumpCircuit d s).rspData = s.rspData ∧
    (runJumpCircuit d s).busy = s.busy ∧ (runJumpCircuit d s).answer = s.answer ∧
    (runJumpCircuit d s).wait = s.wait ∧ (runJumpCircuit d s).events = s.events ∧
    (runJumpCircuit d s).trcPort = s.trcPort ∧ (runJumpCircuit d s).wasReset = s.wasReset ∧
    (runJumpCircuit d s).offered = s.offered ∧ (runJumpCircuit d s).cfg = s.cfg ∧
    (runJumpCircuit d s).inputs = s.inputs ∧ (runJumpCircuit d s).taken = s.taken ∧
    (runJumpCircuit d s).traceLog = s.traceLog ∧ (runJumpCircuit d s).drawn = s.drawn ∧
    (runJumpCircuit d s).jump = jumpCoef s.inc d :=
  by simp [runJumpCircuit]

/-- R172. -/
@[simp] theorem applyJump_fields (s : State) :
    (applyJump s).inc = s.inc ∧ (applyJump s).stepCount = s.stepCount ∧ (applyJump s).trc = s.trc ∧
    (applyJump s).seeded = s.seeded ∧ (applyJump s).rspValid = s.rspValid ∧ (applyJump s).rspStatus = s.rspStatus ∧
    (applyJump s).rspData = s.rspData ∧ (applyJump s).busy = s.busy ∧ (applyJump s).jump = s.jump ∧
    (applyJump s).answer = s.answer ∧ (applyJump s).wait = s.wait ∧ (applyJump s).events = s.events ∧
    (applyJump s).trcPort = s.trcPort ∧ (applyJump s).wasReset = s.wasReset ∧ (applyJump s).offered = s.offered ∧
    (applyJump s).cfg = s.cfg ∧ (applyJump s).inputs = s.inputs ∧ (applyJump s).taken = s.taken ∧
    (applyJump s).traceLog = s.traceLog ∧ (applyJump s).drawn = s.drawn ∧
    (applyJump s).state = add128 (mul128 s.jump.accM s.state) s.jump.accP :=
  ⟨rfl, rfl, rfl, rfl, rfl, rfl, rfl, rfl, rfl, rfl, rfl, rfl, rfl, rfl, rfl, rfl, rfl, rfl, rfl, rfl, rfl⟩

/-- R173. -/
@[simp] theorem countJump_fields (d : U128) (s : State) :
    (countJump d s).state = s.state ∧ (countJump d s).inc = s.inc ∧ (countJump d s).trc = s.trc ∧
    (countJump d s).seeded = s.seeded ∧ (countJump d s).rspValid = s.rspValid ∧
    (countJump d s).rspStatus = s.rspStatus ∧ (countJump d s).rspData = s.rspData ∧ (countJump d s).busy = s.busy ∧
    (countJump d s).jump = s.jump ∧ (countJump d s).answer = s.answer ∧ (countJump d s).wait = s.wait ∧
    (countJump d s).events = s.events ∧ (countJump d s).trcPort = s.trcPort ∧ (countJump d s).wasReset = s.wasReset ∧
    (countJump d s).offered = s.offered ∧ (countJump d s).cfg = s.cfg ∧ (countJump d s).inputs = s.inputs ∧
    (countJump d s).taken = s.taken ∧ (countJump d s).traceLog = s.traceLog ∧ (countJump d s).drawn = s.drawn ∧
    (countJump d s).stepCount = wrapStep s.cfg.wStep (s.stepCount + d) :=
  ⟨rfl, rfl, rfl, rfl, rfl, rfl, rfl, rfl, rfl, rfl, rfl, rfl, rfl, rfl, rfl, rfl, rfl, rfl, rfl, rfl, rfl⟩

/-- R254: the accepting edge. -/
@[simp] theorem acceptCommand_fields (s : State) :
    (acceptCommand s).state = s.state ∧ (acceptCommand s).inc = s.inc ∧ (acceptCommand s).stepCount = s.stepCount ∧
    (acceptCommand s).trc = s.trc ∧ (acceptCommand s).seeded = s.seeded ∧ (acceptCommand s).rspValid = s.rspValid ∧
    (acceptCommand s).jump = s.jump ∧ (acceptCommand s).answer = s.answer ∧ (acceptCommand s).wait = s.wait ∧
    (acceptCommand s).events = s.events ∧ (acceptCommand s).trcPort = s.trcPort ∧
    (acceptCommand s).wasReset = s.wasReset ∧ (acceptCommand s).cfg = s.cfg ∧ (acceptCommand s).inputs = s.inputs ∧
    (acceptCommand s).taken = s.taken ∧ (acceptCommand s).traceLog = s.traceLog ∧ (acceptCommand s).busy = true ∧
    (acceptCommand s).offered = none ∧ (acceptCommand s).rspStatus = Config.freeRspStatus s.drawn ∧
    (acceptCommand s).rspData = Config.freeRspData s.drawn ∧ (acceptCommand s).drawn = s.drawn + 1 :=
  ⟨rfl, rfl, rfl, rfl, rfl, rfl, rfl, rfl, rfl, rfl, rfl, rfl, rfl, rfl, rfl, rfl, rfl, rfl, rfl, rfl, rfl⟩

/-- R256: sampling touches the observer's record only. -/
@[simp] theorem sampleTrace_fields (p : PortIn) (s : State) :
    (sampleTrace p s).state = s.state ∧ (sampleTrace p s).inc = s.inc ∧ (sampleTrace p s).stepCount = s.stepCount ∧
    (sampleTrace p s).trc = s.trc ∧ (sampleTrace p s).seeded = s.seeded ∧ (sampleTrace p s).rspValid = s.rspValid ∧
    (sampleTrace p s).rspStatus = s.rspStatus ∧ (sampleTrace p s).rspData = s.rspData ∧
    (sampleTrace p s).busy = s.busy ∧ (sampleTrace p s).jump = s.jump ∧ (sampleTrace p s).answer = s.answer ∧
    (sampleTrace p s).wait = s.wait ∧ (sampleTrace p s).events = s.events ∧ (sampleTrace p s).trcPort = s.trcPort ∧
    (sampleTrace p s).wasReset = s.wasReset ∧ (sampleTrace p s).offered = s.offered ∧ (sampleTrace p s).cfg = s.cfg ∧
    (sampleTrace p s).inputs = s.inputs ∧ (sampleTrace p s).taken = s.taken ∧ (sampleTrace p s).drawn = s.drawn ∧
    (sampleTrace p s).traceLog = s.traceLog ++ (if p.traceSampled then s.trcPort.toList else []) :=
  by unfold sampleTrace; cases p.traceSampled <;> simp

/-- R254: taking a response. -/
@[simp] theorem takeResponse_fields (s : State) :
    (takeResponse s).state = s.state ∧ (takeResponse s).inc = s.inc ∧ (takeResponse s).stepCount = s.stepCount ∧
    (takeResponse s).trc = s.trc ∧ (takeResponse s).seeded = s.seeded ∧ (takeResponse s).jump = s.jump ∧
    (takeResponse s).answer = s.answer ∧ (takeResponse s).wait = s.wait ∧ (takeResponse s).events = s.events ∧
    (takeResponse s).trcPort = s.trcPort ∧ (takeResponse s).wasReset = s.wasReset ∧
    (takeResponse s).offered = s.offered ∧ (takeResponse s).cfg = s.cfg ∧ (takeResponse s).inputs = s.inputs ∧
    (takeResponse s).traceLog = s.traceLog ∧ (takeResponse s).taken = s.taken ++ [⟨s.rspStatus, s.rspData⟩] ∧
    (takeResponse s).rspValid = false ∧ (takeResponse s).busy = false ∧
    (takeResponse s).rspStatus = Config.freeRspStatus s.drawn ∧
    (takeResponse s).rspData = Config.freeRspData s.drawn ∧ (takeResponse s).drawn = s.drawn + 1 :=
  ⟨rfl, rfl, rfl, rfl, rfl, rfl, rfl, rfl, rfl, rfl, rfl, rfl, rfl, rfl, rfl, rfl, rfl, rfl, rfl, rfl, rfl⟩

/-- R256: presenting touches the trace port and the events still to come only. -/
@[simp] theorem presentTrace_fields (s : State) :
    (presentTrace s).state = s.state ∧ (presentTrace s).inc = s.inc ∧ (presentTrace s).stepCount = s.stepCount ∧
    (presentTrace s).trc = s.trc ∧ (presentTrace s).seeded = s.seeded ∧ (presentTrace s).rspValid = s.rspValid ∧
    (presentTrace s).rspStatus = s.rspStatus ∧ (presentTrace s).rspData = s.rspData ∧
    (presentTrace s).busy = s.busy ∧ (presentTrace s).jump = s.jump ∧ (presentTrace s).answer = s.answer ∧
    (presentTrace s).wait = s.wait ∧ (presentTrace s).wasReset = s.wasReset ∧ (presentTrace s).offered = s.offered ∧
    (presentTrace s).cfg = s.cfg ∧ (presentTrace s).inputs = s.inputs ∧ (presentTrace s).taken = s.taken ∧
    (presentTrace s).traceLog = s.traceLog ∧ (presentTrace s).drawn = s.drawn :=
  by unfold presentTrace; split
     · simp
     · split <;> simp

/-- R254: a passing cycle touches the response registers and the count only. -/
@[simp] theorem countDown_fields (s : State) :
    (countDown s).state = s.state ∧ (countDown s).inc = s.inc ∧ (countDown s).stepCount = s.stepCount ∧
    (countDown s).trc = s.trc ∧ (countDown s).seeded = s.seeded ∧ (countDown s).busy = s.busy ∧
    (countDown s).jump = s.jump ∧ (countDown s).events = s.events ∧ (countDown s).trcPort = s.trcPort ∧
    (countDown s).wasReset = s.wasReset ∧ (countDown s).offered = s.offered ∧ (countDown s).cfg = s.cfg ∧
    (countDown s).inputs = s.inputs ∧ (countDown s).taken = s.taken ∧ (countDown s).traceLog = s.traceLog ∧
    (countDown s).drawn = s.drawn :=
  by unfold countDown; split
     · simp
     · split <;> simp

/-- Only what the host drives next changes. -/
@[simp] theorem withInputs_fields (l : List HostEvent) (s : State) :
    (withInputs l s).state = s.state ∧ (withInputs l s).inc = s.inc ∧ (withInputs l s).stepCount = s.stepCount ∧
    (withInputs l s).trc = s.trc ∧ (withInputs l s).seeded = s.seeded ∧ (withInputs l s).rspValid = s.rspValid ∧
    (withInputs l s).rspStatus = s.rspStatus ∧ (withInputs l s).rspData = s.rspData ∧
    (withInputs l s).busy = s.busy ∧ (withInputs l s).jump = s.jump ∧ (withInputs l s).answer = s.answer ∧
    (withInputs l s).wait = s.wait ∧ (withInputs l s).events = s.events ∧ (withInputs l s).trcPort = s.trcPort ∧
    (withInputs l s).wasReset = s.wasReset ∧ (withInputs l s).offered = s.offered ∧ (withInputs l s).cfg = s.cfg ∧
    (withInputs l s).taken = s.taken ∧ (withInputs l s).traceLog = s.traceLog ∧ (withInputs l s).drawn = s.drawn ∧
    (withInputs l s).inputs = l :=
  ⟨rfl, rfl, rfl, rfl, rfl, rfl, rfl, rfl, rfl, rfl, rfl, rfl, rfl, rfl, rfl, rfl, rfl, rfl, rfl, rfl, rfl⟩

/-- R255: only the command on offer is recorded. -/
@[simp] theorem recordOffer_fields (p : PortIn) (s : State) :
    (recordOffer p s).state = s.state ∧ (recordOffer p s).inc = s.inc ∧ (recordOffer p s).stepCount = s.stepCount ∧
    (recordOffer p s).trc = s.trc ∧ (recordOffer p s).seeded = s.seeded ∧ (recordOffer p s).rspValid = s.rspValid ∧
    (recordOffer p s).rspStatus = s.rspStatus ∧ (recordOffer p s).rspData = s.rspData ∧
    (recordOffer p s).busy = s.busy ∧ (recordOffer p s).jump = s.jump ∧ (recordOffer p s).answer = s.answer ∧
    (recordOffer p s).wait = s.wait ∧ (recordOffer p s).events = s.events ∧ (recordOffer p s).trcPort = s.trcPort ∧
    (recordOffer p s).wasReset = s.wasReset ∧ (recordOffer p s).cfg = s.cfg ∧ (recordOffer p s).inputs = s.inputs ∧
    (recordOffer p s).taken = s.taken ∧ (recordOffer p s).traceLog = s.traceLog ∧ (recordOffer p s).drawn = s.drawn ∧
    (recordOffer p s).offered = p.offer :=
  ⟨rfl, rfl, rfl, rfl, rfl, rfl, rfl, rfl, rfl, rfl, rfl, rfl, rfl, rfl, rfl, rfl, rfl, rfl, rfl, rfl, rfl⟩

/-- R254: the handshake touches the response registers, BUSY, the count and the host's record of responses only. -/
@[simp] theorem progress_fields (p : PortIn) (s : State) :
    (progress p s).state = s.state ∧ (progress p s).inc = s.inc ∧ (progress p s).stepCount = s.stepCount ∧
    (progress p s).trc = s.trc ∧ (progress p s).seeded = s.seeded ∧ (progress p s).jump = s.jump ∧
    (progress p s).events = s.events ∧ (progress p s).trcPort = s.trcPort ∧ (progress p s).wasReset = s.wasReset ∧
    (progress p s).offered = s.offered ∧ (progress p s).cfg = s.cfg ∧ (progress p s).inputs = s.inputs ∧
    (progress p s).traceLog = s.traceLog :=
  by unfold progress; split
     · split <;> simp
     · simp

/-- An edge that accepts nothing writes none of STATE, INC, STEP, TRC, SEEDED (R234, R254). -/
@[simp] theorem runOn_fields (p : PortIn) (s : State) :
    (runOn p s).state = s.state ∧ (runOn p s).inc = s.inc ∧ (runOn p s).stepCount = s.stepCount ∧
    (runOn p s).trc = s.trc ∧ (runOn p s).seeded = s.seeded ∧ (runOn p s).jump = s.jump ∧
    (runOn p s).wasReset = s.wasReset ∧ (runOn p s).cfg = s.cfg ∧ (runOn p s).inputs = s.inputs ∧
    (runOn p s).offered = p.offer ∧
    (runOn p s).traceLog = s.traceLog ++ (if p.traceSampled then s.trcPort.toList else []) :=
  by simp [runOn]

/-- R250, R251. -/
@[simp] theorem applyReset_fields (s : State) :
    (applyReset s).offered = s.offered ∧ (applyReset s).cfg = s.cfg ∧ (applyReset s).inputs = s.inputs ∧
    (applyReset s).taken = s.taken ∧ (applyReset s).traceLog = s.traceLog ∧ (applyReset s).state = 0 ∧
    (applyReset s).inc = 0 ∧ (applyReset s).stepCount = 0 ∧ (applyReset s).trc = false ∧
    (applyReset s).seeded = false ∧ (applyReset s).rspValid = false ∧ (applyReset s).rspStatus = 0 ∧
    (applyReset s).rspData = 0 ∧ (applyReset s).busy = false ∧ (applyReset s).answer = none ∧
    (applyReset s).wait = 0 ∧ (applyReset s).events = [] ∧ (applyReset s).trcPort = none ∧
    (applyReset s).wasReset = true ∧ (applyReset s).drawn = s.drawn + 1 :=
  ⟨rfl, rfl, rfl, rfl, rfl, rfl, rfl, rfl, rfl, rfl, rfl, rfl, rfl, rfl, rfl, rfl, rfl, rfl, rfl, rfl⟩

/-- R250, R251. -/
@[simp] theorem resetEdge_fields (p : PortIn) (s : State) :
    (resetEdge p s).cfg = s.cfg ∧ (resetEdge p s).inputs = s.inputs ∧ (resetEdge p s).taken = s.taken ∧
    (resetEdge p s).traceLog = s.traceLog ∧ (resetEdge p s).state = 0 ∧ (resetEdge p s).inc = 0 ∧
    (resetEdge p s).stepCount = 0 ∧ (resetEdge p s).trc = false ∧ (resetEdge p s).seeded = false ∧
    (resetEdge p s).rspValid = false ∧ (resetEdge p s).rspStatus = 0 ∧ (resetEdge p s).rspData = 0 ∧
    (resetEdge p s).busy = false ∧ (resetEdge p s).answer = none ∧ (resetEdge p s).wait = 0 ∧
    (resetEdge p s).events = [] ∧ (resetEdge p s).trcPort = none ∧ (resetEdge p s).wasReset = true ∧
    (resetEdge p s).drawn = s.drawn + 1 ∧ (resetEdge p s).offered = p.offer :=
  by simp [resetEdge]

/-- U2: before the first reset. -/
@[simp] theorem openAllRegs_fields (s : State) :
    (openAllRegs s).wasReset = s.wasReset ∧ (openAllRegs s).offered = s.offered ∧ (openAllRegs s).cfg = s.cfg ∧
    (openAllRegs s).inputs = s.inputs ∧ (openAllRegs s).taken = s.taken ∧ (openAllRegs s).traceLog = s.traceLog ∧
    (openAllRegs s).answer = none ∧ (openAllRegs s).wait = 0 ∧ (openAllRegs s).events = [] ∧
    (openAllRegs s).trcPort = none ∧ (openAllRegs s).drawn = s.drawn + 1 :=
  ⟨rfl, rfl, rfl, rfl, rfl, rfl, rfl, rfl, rfl, rfl, rfl⟩

/-- A next state goes on. -/
@[simp] theorem afterNext_next (f : State → State) (s : State) : afterNext f (.next s) = .next (f s) := rfl

/-- A fault stops. -/
@[simp] theorem afterNext_fault (f : State → State) (r : Fault) : afterNext f (.fault r) = .fault r := rfl

/-- A refusal stops. -/
@[simp] theorem afterNext_refused (f : State → State) (r : Refusal) : afterNext f (.refused r) = .refused r := rfl

end Sys2Proof.Machine
end

