-- ==== Sys2Proof/Laws/Arith.lean ====
section
/-! SUPPORT. Facts about the primitives: the multiplier, INC's low bit, the rotation bit by bit, and the algebra of affine
maps the jump circuit relies on (R34, R114, R115, R120). -/

namespace Sys2Proof.Machine

/-- R34: the composed constant is the hexadecimal one. -/
theorem mul_literal : Config.MUL = 0x2360ED051FC65DA44385DF649FCCF645#128 := by decide

/-- R15, R130: ADVANCE's new STATE is the step transform. -/
theorem advance_state (s : State) : (advance s).state = lcg s.inc s.state := by
  simp [lcg, add128, mul128, mul_literal]

/-- R35: reducing STEP, as arithmetic. -/
theorem wrapStep_toNat (w : Nat) (v : U128) : (wrapStep w v).toNat = v.toNat % 2 ^ w :=
  BitVec.toNat_ofNat .. ▸ Nat.mod_eq_of_lt (Nat.lt_of_le_of_lt (Nat.mod_le _ _) v.isLt)

/-- R35: with the default W_STEP, reduction is the identity. -/
@[simp] theorem wrapStep_128 (v : U128) : wrapStep 128 v = v :=
  BitVec.eq_of_toNat_eq (by rw [wrapStep_toNat, Nat.mod_eq_of_lt v.isLt])

/-- R35: 0 fits every width. -/
@[simp] theorem wrapStep_zero (w : Nat) : wrapStep w 0#128 = 0#128 := BitVec.eq_of_toNat_eq (by rw [wrapStep_toNat]; simp)

/-- R35: sums may be reduced once, at the end. -/
@[simp] theorem wrapStep_add (w : Nat) (a b : U128) : wrapStep w (wrapStep w a + b) = wrapStep w (a + b) := by
  apply BitVec.eq_of_toNat_eq
  simp only [wrapStep_toNat, BitVec.toNat_add]
  rcases Nat.le_total w 128 with h | h
  · rw [Nat.mod_mod_of_dvd _ (Nat.pow_dvd_pow 2 h), Nat.mod_mod_of_dvd _ (Nat.pow_dvd_pow 2 h)]
    simp [Nat.add_mod]
  · rw [Nat.mod_eq_of_lt (Nat.lt_of_lt_of_le a.isLt (Nat.pow_le_pow_right (by decide) h))]

/-- R35: a reduced value fits. -/
@[simp] theorem wrapStep_wrapStep (w : Nat) (a : U128) : wrapStep w (wrapStep w a) = wrapStep w a := by
  simpa using wrapStep_add w a 0

/-- R33, R133: INC is odd after SEED, in both modes and whatever it held. -/
theorem seedInc_odd (m : SeedIncMode) (i b : U128) : (seedInc m i b).getLsbD 0 = true := by
  cases m <;> simp [seedInc, or128, incval]

/-- R115: the amount of the left shift is the complement of the rotation mod 64, so it is 0 for a rotation by 0. -/
theorem rotr_left_amount (r : U6) : ((-r) &&& 63#6).toNat = (64 - r.toNat) % 64 := by
  revert r; decide

/-- R115: bit `i` of the result is bit `(i + r) mod 64` of the operand. -/
theorem rotr64_bit (v : U64) (r : U6) (i : Nat) (hi : i < 64) :
    (rotr64 v r).getLsbD i = v.getLsbD ((i + r.toNat) % 64) := by
  have hr := r.isLt
  unfold rotr64
  rw [rotr_left_amount, BitVec.getLsbD_or, BitVec.getLsbD_ushiftRight, BitVec.getLsbD_shiftLeft]
  by_cases h0 : r.toNat = 0
  · simp [h0, hi, Nat.mod_eq_of_lt hi]
  · rw [Nat.mod_eq_of_lt (show 64 - r.toNat < 64 by omega)]
    by_cases h : i + r.toNat < 64
    · rw [Nat.mod_eq_of_lt h, Nat.add_comm]
      have : i < 64 - r.toNat := by omega
      simp [this]
    · have hm : (i + r.toNat) % 64 = i + r.toNat - 64 := by omega
      have hz : v.getLsbD (r.toNat + i) = false := BitVec.getLsbD_of_ge _ _ (by omega)
      have hl : ¬ i < 64 - r.toNat := by omega
      have hs : i - (64 - r.toNat) = i + r.toNat - 64 := by omega
      rw [hm, hz]
      simp [hl, hs, hi]

/-- The map `x ↦ m * x + p` (R120). -/
def affine (m p x : U128) : U128 := add128 (mul128 m x) p

/-- R120: composition of affine maps. -/
theorem affine_comp (m1 p1 m2 p2 x : U128) :
    affine m2 p2 (affine m1 p1 x) = affine (mul128 m2 m1) (add128 (mul128 m2 p1) p2) x := by
  simp only [affine, add128, mul128]; ring

/-- R120: the square of an affine map, which is the circuit's recurrence. -/
theorem affine_square (m p x : U128) :
    affine m p (affine m p x) = affine (mul128 m m) (mul128 (add128 m 1) p) x := by
  simp only [affine, add128, mul128]; ring

end Sys2Proof.Machine
end

