-- ==== Sys2Proof/Laws/HostBus.lean ====
section
/-! SUPPORT. The bits of a number built from bits, which is all that the host bus words rest on. -/

namespace Sys2Proof.Machine

/-- Bit `k` of the number is entry `k` of the list, and no bit is set above it. -/
theorem bitsValue_testBit (l : List Bool) (k : Nat) : (bitsValue l).testBit k = (l[k]?).getD false := by
  induction l generalizing k with
  | nil => simp [bitsValue]
  | cons b l ih =>
    cases k with
    | zero => cases b <;> simp [bitsValue, Nat.testBit_zero]
    | succ k =>
      have h : bitsValue (b :: l) / 2 = bitsValue l := by cases b <;> (simp [bitsValue]; try omega)
      rw [Nat.testBit_succ, h, ih]; simp

/-- The number fits the list's width. -/
theorem bitsValue_lt (l : List Bool) : bitsValue l < 2 ^ l.length := by
  induction l with
  | nil => simp [bitsValue]
  | cons b l ih => simp only [bitsValue, List.length_cons, pow_succ]; cases b <;> simp <;> omega

end Sys2Proof.Machine
end

