-- ==== Sys2Proof/Laws/PerInstr.lean ====
section
/-! SUPPORT. Statements made per instruction: what `encode` drives on the port (R81, R82, R83, R89). -/

namespace Sys2Proof.Laws.Encoded

/-- The command word that R83 gives the instruction, and the buses R82 says it does not read. -/
def wordAndUnread : Instr → U8 × (Command → Bool)
  | .seed _ _ => (0x01, fun _ => true)
  | .roll => (0x02, fun c => c.a == 0 && c.b == 0)
  | .jump _ => (0x03, fun c => c.b == 0)
  | .trace => (0x04, fun c => c.a == 0 && c.b == 0)
  | .rdstate => (0x05, fun c => c.a == 0 && c.b == 0)
  | .rdinc => (0x06, fun c => c.a == 0 && c.b == 0)
  | .rdstep => (0x07, fun c => c.a == 0 && c.b == 0)
  | .rdstat => (0x08, fun c => c.a == 0 && c.b == 0)

/-- The encoded transfer passes the word checks, has the word of R83 and drives 0 on every bus the command ignores. -/
def Statement (i : Instr) : Prop :=
  (encode i).wellFormed = true ∧ (encode i).word = (wordAndUnread i).1 ∧ (wordAndUnread i).2 (encode i) = true

/-- A word whose bits are known passes the two checks, whatever the buses carry. -/
theorem wellFormed_of_word (w : U8) (a b : U128) (h : rsvField w = 0#4) (h1 : 1#4 ≤ opcField w) (h2 : opcField w ≤ 8#4) :
    Command.wellFormed ⟨w, a, b⟩ = true := by
  simp [Command.wellFormed, Command.reservedBitsClear, Command.opcodeAssigned, h, h1, h2]

theorem seed (a b : U128) : Statement (.seed a b) :=
  ⟨wellFormed_of_word 1 a b (by decide) (by decide) (by decide), rfl, rfl⟩
theorem roll : Statement .roll := ⟨by decide, rfl, by decide⟩
theorem jump (d : U128) : Statement (.jump d) :=
  ⟨wellFormed_of_word 3 d 0 (by decide) (by decide) (by decide), rfl, rfl⟩
theorem trace : Statement .trace := ⟨by decide, rfl, by decide⟩
theorem rdstate : Statement .rdstate := ⟨by decide, rfl, by decide⟩
theorem rdinc : Statement .rdinc := ⟨by decide, rfl, by decide⟩
theorem rdstep : Statement .rdstep := ⟨by decide, rfl, by decide⟩
theorem rdstat : Statement .rdstat := ⟨by decide, rfl, by decide⟩

end Sys2Proof.Laws.Encoded
end

