-- ==== Sys2Proof/Laws/Step.lean ====
section
/-! SUPPORT. How steps chain: one entry of the host's inputs, and runs of steps. -/

namespace Sys2Proof.Machine

/-- An edge at the head of the inputs is the next step. -/
theorem step_of_edge {s : State} {p : PortIn} {rest : List HostEvent} (h : s.inputs = .edge p :: rest) :
    step s = clockEdge p (withInputs rest s) := by
  unfold step hostStep; rw [h]

/-- With nothing to drive the next step is an idle edge. -/
theorem step_of_no_input {s : State} (h : s.inputs = []) : step s = clockEdge PortIn.idle s := by
  unfold step hostStep; rw [h]

/-- A run of any machine goes on from the next state. -/
theorem core_run_next (M : Host.Core) (k : Nat) (s t : M.State) (h : M.step s = .next t) : M.run (k + 1) s = M.run k t := by
  rw [Host.Core.run, h]

/-- Two runs of any machine in a row. -/
theorem core_run_add (M : Host.Core) (n : Nat) : ∀ (m : Nat) (s t : M.State), M.run m s = .next t →
    M.run (m + n) s = M.run n t
  | 0, s, t, h => by rw [Host.Core.run] at h; cases h; rw [Nat.zero_add]
  | m + 1, s, t, h => by
    rw [Nat.succ_add]
    rw [Host.Core.run] at h ⊢
    split at h
    · exact core_run_add M n m _ _ h
    · cases h
    · cases h

/-- A run of this machine goes on from the next state. -/
theorem run_succ_of_next {s t : State} (k : Nat) (h : step s = .next t) :
    Host.Core.run Sys2Proof.core (k + 1) s = Host.Core.run Sys2Proof.core k t :=
  core_run_next Sys2Proof.core k s t h

/-- A run of no step stays. -/
theorem run_zero (s : State) : Host.Core.run Sys2Proof.core 0 s = .next s := rfl

/-- Two runs of this machine in a row. -/
theorem run_add_of_next {s t : State} {m : Nat} (n : Nat) (h : Host.Core.run Sys2Proof.core m s = .next t) :
    Host.Core.run Sys2Proof.core (m + n) s = Host.Core.run Sys2Proof.core n t :=
  core_run_add Sys2Proof.core n m s t h

end Sys2Proof.Machine
end

