-- ==== Sys2Proof/Laws/Program.lean ====
section
/-! SUPPORT. The transaction level in closed form: what a command does to the registers of R30, its response and its events
as one pure function, and that `transact` and `runActions` compute it. -/

namespace Sys2Proof.Machine

/-- The registers of R30. -/
structure ArchRegs where
  state : U128
  inc : U128
  stepCount : U128
  trc : Bool
  seeded : Bool
deriving DecidableEq, Repr

/-- The registers of a state. -/
def archOf (s : State) : ArchRegs := ⟨s.state, s.inc, s.stepCount, s.trc, s.seeded⟩

/-- The registers right after reset (R30). -/
def ArchRegs.zero : ArchRegs := ⟨0, 0, 0, false, false⟩

/-- What one command leaves. -/
structure Effect where
  regs : ArchRegs
  response : Response
  events : List TraceEvent
deriving DecidableEq, Repr

/-- One step of the LCG, as ADVANCE takes it (R130). -/
def lcgNext (inc x : U128) : U128 := add128 (mul128 Config.MUL x) inc

/-- The events of a traced command (R88). -/
def traced (trc : Bool) (l : List TraceEvent) : List TraceEvent := if trc then l else []

/-- The effect of an instruction on the registers (41 to 44). -/
def instrEffect (cfg : Config) (a : ArchRegs) : Instr → Effect
  | .seed x b =>
    let inc := seedInc cfg.seedIncMode a.inc b
    let y1 := lcgNext inc (seedStart cfg.seedClearState a.state)
    let y2 := lcgNext inc (add128 y1 x)
    ⟨⟨y2, inc, wrapStep cfg.wStep (wrapStep cfg.wStep (a.stepCount + 1) + 1), a.trc, true⟩, ⟨0, y2⟩, traced a.trc [⟨.adv, y1⟩, ⟨.adv, y2⟩]⟩
  | .roll =>
    if a.seeded then
      let y := lcgNext a.inc a.state
      ⟨⟨y, a.inc, wrapStep cfg.wStep (a.stepCount + 1), a.trc, true⟩, ⟨0, zext128 (xslrr y)⟩, traced a.trc [⟨.adv, y⟩]⟩
    else ⟨a, ⟨2, 0⟩, []⟩
  | .jump d =>
    if a.seeded then
      let y := add128 (mul128 (jumpCoef a.inc d).accM a.state) (jumpCoef a.inc d).accP
      ⟨⟨y, a.inc, wrapStep cfg.wStep (a.stepCount + d), a.trc, true⟩, ⟨0, 0⟩, traced a.trc [⟨.jmp, y⟩]⟩
    else ⟨a, ⟨2, 0⟩, []⟩
  | .trace => ⟨⟨a.state, a.inc, a.stepCount, !a.trc, a.seeded⟩, ⟨0, traceData a.trc⟩, []⟩
  | .rdstate => ⟨a, ⟨0, a.state⟩, []⟩
  | .rdinc => ⟨a, ⟨0, a.inc⟩, []⟩
  | .rdstep => ⟨a, ⟨0, a.stepCount⟩, []⟩
  | .rdstat => ⟨a, ⟨0, statusView a.seeded a.trc⟩, []⟩

/-- The effect of a command transfer (R84, R221). -/
def commandEffect (cfg : Config) (a : ArchRegs) (c : Command) : Effect :=
  match decode c with
  | .instr i => instrEffect cfg a i
  | .illegal _ => ⟨a, ⟨1, 0⟩, []⟩

/-- What every command leaves alone, and what it sets, beside the registers of R30. -/
structure CommandResult (c : Command) (s t : State) : Prop where
  regs : archOf t = (commandEffect s.cfg (archOf s) c).regs
  answer : t.answer = some (commandEffect s.cfg (archOf s) c).response
  events : t.events = s.events ++ (commandEffect s.cfg (archOf s) c).events
  wait : t.wait = commandLatency c s
  rspValid : t.rspValid = s.rspValid
  rspStatus : t.rspStatus = s.rspStatus
  rspData : t.rspData = s.rspData
  busy : t.busy = s.busy
  trcPort : t.trcPort = s.trcPort
  wasReset : t.wasReset = s.wasReset
  offered : t.offered = s.offered
  cfg : t.cfg = s.cfg
  inputs : t.inputs = s.inputs
  taken : t.taken = s.taken
  traceLog : t.traceLog = s.traceLog

/-- Every command transfer ends in a next state, which this describes. -/
theorem runCommand_result (c : Command) (s : State) : ∃ t, runCommand c s = .next t ∧ CommandResult c s t := by
  unfold runCommand
  rcases hd : decode c with i | w
  · cases i with
    | seed a b =>
      refine ⟨_, rfl, ?_⟩
      constructor <;> simp [commandLatency, commandEffect, hd, instrEffect, archOf, statusOk, lcgNext, traced]
      by_cases h : s.trc = true <;> simp [h]
    | roll =>
      cases h : s.seeded
      · refine ⟨_, by show execRoll s = _; simp [execRoll, h]; rfl, ?_⟩
        constructor <;> simp [commandLatency, commandEffect, hd, instrEffect, archOf, h, errorCode]
      · refine ⟨_, by show execRoll s = _; simp [execRoll, h]; rfl, ?_⟩
        constructor <;> simp [commandLatency, commandEffect, hd, instrEffect, archOf, h, statusOk, lcgNext, traced]
    | jump d =>
      cases h : s.seeded
      · refine ⟨_, by show execJump d s = _; simp [execJump, h]; rfl, ?_⟩
        constructor <;> simp [commandLatency, commandEffect, hd, instrEffect, archOf, h, errorCode]
      · refine ⟨_, by show execJump d s = _; simp only [execJump, h]; rfl, ?_⟩
        constructor <;> simp [commandLatency, commandEffect, hd, instrEffect, archOf, h, statusOk, traced]
    | trace =>
      refine ⟨_, rfl, ?_⟩
      constructor <;> simp [commandLatency, commandEffect, hd, instrEffect, archOf, statusOk]
    | rdstate =>
      refine ⟨_, rfl, ?_⟩
      constructor <;> simp [commandLatency, commandEffect, hd, instrEffect, archOf, statusOk]
    | rdinc =>
      refine ⟨_, rfl, ?_⟩
      constructor <;> simp [commandLatency, commandEffect, hd, instrEffect, archOf, statusOk]
    | rdstep =>
      refine ⟨_, rfl, ?_⟩
      constructor <;> simp [commandLatency, commandEffect, hd, instrEffect, archOf, statusOk]
    | rdstat =>
      refine ⟨_, rfl, ?_⟩
      constructor <;> simp [commandLatency, commandEffect, hd, instrEffect, archOf, statusOk]
  · refine ⟨_, rfl, ?_⟩
    constructor <;> simp [commandLatency, commandEffect, hd, archOf, errorCode]

/-- Ending a transaction whose response is `r`. -/
theorem retire_of_answer {s : State} {r : Response} (h : s.answer = some r) :
    retire s = openResponseRegs
      { s with
        taken := s.taken ++ [r]
        traceLog := s.traceLog ++ s.events
        events := []
        answer := none
        wait := 0
        busy := false } := by
  simp [retire, h]

/-- What a transaction leaves. -/
structure TransactionResult (c : Command) (s t : State) : Prop where
  regs : archOf t = (commandEffect s.cfg (archOf s) c).regs
  taken : t.taken = s.taken ++ [(commandEffect s.cfg (archOf s) c).response]
  traceLog : t.traceLog = s.traceLog ++ (s.events ++ (commandEffect s.cfg (archOf s) c).events)
  events : t.events = []
  answer : t.answer = none
  wait : t.wait = 0
  busy : t.busy = false
  offered : t.offered = none
  rspValid : t.rspValid = s.rspValid
  trcPort : t.trcPort = s.trcPort
  wasReset : t.wasReset = s.wasReset
  cfg : t.cfg = s.cfg
  inputs : t.inputs = s.inputs

/-- U2: before the first reset no transaction is admitted. -/
theorem transact_before_reset (c : Command) {s : State} (h : s.wasReset = false) :
    transact c s = .refused .commandBeforeReset := by simp [transact, h]

/-- After the first reset every transaction ends in a next state, which this describes. -/
theorem transact_result (c : Command) {s : State} (hw : s.wasReset = true) :
    ∃ t, transact c s = .next t ∧ TransactionResult c s t := by
  obtain ⟨u, hu, f⟩ := runCommand_result c (acceptCommand s)
  have ha : archOf (acceptCommand s) = archOf s := by simp [archOf]
  refine ⟨retire u, by simp [transact, hw, hu], ?_⟩
  rw [retire_of_answer f.answer]
  constructor <;> simp [f.events, f.offered, f.rspValid, f.trcPort, f.wasReset, f.cfg, f.inputs, f.taken, f.traceLog, ha]
  rw [← ha, ← show (acceptCommand s).cfg = s.cfg by simp, ← f.regs]; simp [archOf]

/-- The registers after a list of actions. -/
def regsAfter (cfg : Config) : List HostAction → ArchRegs → ArchRegs
  | [], a => a
  | .command c :: hs, a => regsAfter cfg hs (commandEffect cfg a c).regs
  | .reset :: hs, _ => regsAfter cfg hs ArchRegs.zero

/-- The responses to a list of actions. -/
def responsesOf (cfg : Config) : List HostAction → ArchRegs → List Response
  | [], _ => []
  | .command c :: hs, a => (commandEffect cfg a c).response :: responsesOf cfg hs (commandEffect cfg a c).regs
  | .reset :: hs, _ => responsesOf cfg hs ArchRegs.zero

/-- The trace events of a list of actions. -/
def eventsOf (cfg : Config) : List HostAction → ArchRegs → List TraceEvent
  | [], _ => []
  | .command c :: hs, a => (commandEffect cfg a c).events ++ eventsOf cfg hs (commandEffect cfg a c).regs
  | .reset :: hs, _ => eventsOf cfg hs ArchRegs.zero

/-- After the first reset a run of actions ends in a next state with these registers and responses; its events are recorded
where none was left over at the start. -/
theorem runActions_result (hs : List HostAction) (s : State) (hw : s.wasReset = true) :
    ∃ t, runActions hs s = .next t ∧ t.cfg = s.cfg ∧
    archOf t = regsAfter s.cfg hs (archOf s) ∧ t.taken = s.taken ++ responsesOf s.cfg hs (archOf s) ∧
    (s.events = [] → t.events = [] ∧ t.traceLog = s.traceLog ++ eventsOf s.cfg hs (archOf s)) := by
  induction hs generalizing s with
  | nil => exact ⟨s, rfl, rfl, rfl, by simp [responsesOf], fun h => ⟨h, by simp [eventsOf]⟩⟩
  | cons h hs ih =>
    cases h with
    | command c =>
      obtain ⟨u, hu, f⟩ := transact_result c hw
      obtain ⟨t, ht, hc, hr, htk, hev⟩ := ih u (f.wasReset.trans hw)
      refine ⟨t, by simp [runActions, act, hu, ht], by rw [hc, f.cfg], ?_, ?_, fun h0 => ⟨(hev f.events).1, ?_⟩⟩
      · rw [hr, f.cfg, f.regs]; rfl
      · rw [htk, f.cfg, f.regs, f.taken]; simp [responsesOf]
      · rw [(hev f.events).2, f.cfg, f.regs, f.traceLog, h0]; simp [eventsOf]
    | reset =>
      obtain ⟨t, ht, hc, hr, htk, hev⟩ := ih (resetEdge { PortIn.idle with rst := true } s) (by simp)
      have hz : archOf (resetEdge { PortIn.idle with rst := true } s) = ArchRegs.zero := by simp [archOf, ArchRegs.zero]
      refine ⟨t, by simp [runActions, act, ht], by simp [hc], ?_, ?_, fun h0 => ?_⟩
      · rw [hr, hz]; simp [regsAfter]
      · rw [htk, hz]; simp [responsesOf]
      · have := hev (by simp); rw [hz] at this; simpa [eventsOf] using this

end Sys2Proof.Machine
end

