-- ==== Sys2Proof/Laws/Port.lean ====
section
/-! SUPPORT. What one rising edge can do, said once: the cases of `clockEdge` and `step`, of counting down and of presenting
the trace port; that what the host drives next changes no command's effect; and what the invariant says of an idle block and
of a block whose response is valid. -/

namespace Sys2Proof.Machine

/-- Presenting takes the head of the events still to come, or leaves the port empty and the events as they are. -/
theorem presentTrace_cases (s : State) :
    (∃ e, s.events = e :: (presentTrace s).events ∧ (presentTrace s).trcPort = some e ∧
      s.wait ≤ (presentTrace s).events.length) ∨
    ((presentTrace s).events = s.events ∧ (presentTrace s).trcPort = none ∧
      (s.events.length ≤ s.wait ∨ s.events = [])) := by
  unfold presentTrace
  split
  · next h => right; simp [h]
  · next e rest h =>
    split
    · next h2 => left; exact ⟨e, h, rfl, h2⟩
    · next h2 => right; refine ⟨rfl, rfl, .inl ?_⟩; rw [h]; simp; omega

/-- Counting down: no command in progress, the last cycle, or one of the others. -/
theorem countDown_cases (s : State) :
    (s.answer = none ∧ countDown s = s) ∨
    (∃ r, s.answer = some r ∧ s.wait ≤ 1 ∧
      countDown s = { s with answer := none, wait := 0, rspValid := true, rspStatus := r.status, rspData := r.data }) ∨
    (∃ r, s.answer = some r ∧ ¬ s.wait ≤ 1 ∧ countDown s = { s with wait := s.wait - 1 }) := by
  unfold countDown
  split
  · next h => exact .inl ⟨h, rfl⟩
  · next r h =>
    split
    · next h2 => exact .inr (.inl ⟨r, h, h2, rfl⟩)
    · next h2 => exact .inr (.inr ⟨r, h, h2, rfl⟩)

/-- An edge that ends in a next state is a reset, an idle edge before the first reset, an accepting edge, or an edge that
goes on. -/
theorem clockEdge_next_cases {p : PortIn} {s t : State} (h : clockEdge p s = .next t) :
    (p.rst = true ∧ t = resetEdge p s) ∨
    (p.rst = false ∧ s.wasReset = false ∧ t = recordOffer p (openAllRegs s)) ∨
    (p.rst = false ∧ s.wasReset = true ∧ s.busy = false ∧ p.cmdValid = true ∧
      ∃ u, runCommand p.command (acceptCommand (sampleTrace p s)) = .next u ∧ t = presentTrace u) ∨
    (p.rst = false ∧ s.wasReset = true ∧ (s.busy = true ∨ p.cmdValid = false) ∧ t = runOn p s) := by
  unfold clockEdge at h
  split at h
  · cases h
  · split at h
    · next hr => cases h; exact .inl ⟨hr, rfl⟩
    · next hr =>
      simp only [Bool.not_eq_true] at hr
      split at h
      · next hw => cases h; simp at hw; exact .inr (.inl ⟨hr, hw, rfl⟩)
      · next hw =>
        simp at hw
        split at h
        · cases h
        · split at h
          · next hc =>
            simp [cmdReady, hr] at hc
            obtain ⟨u, hu, -⟩ := runCommand_result p.command (acceptCommand (sampleTrace p s))
            rw [hu] at h; cases h
            exact .inr (.inr (.inl ⟨hr, hw, hc.2, hc.1, u, hu, rfl⟩))
          · next hc =>
            cases h
            refine .inr (.inr (.inr ⟨hr, hw, ?_, rfl⟩))
            cases hb : s.busy <;> simp_all [cmdReady]

/-- A step that ends in a next state is one edge: the head of the inputs, or an idle one when there is none. -/
theorem step_next_cases {s t : State} (h : step s = .next t) :
    ∃ p rest, (s.inputs = .edge p :: rest ∨ (s.inputs = [] ∧ rest = [] ∧ p = PortIn.idle)) ∧
      clockEdge p (withInputs rest s) = .next t := by
  unfold step hostStep at h
  split at h
  · next hi =>
    refine ⟨PortIn.idle, [], .inr ⟨hi, rfl, rfl⟩, ?_⟩
    rw [show withInputs [] s = s by rw [← hi]; rfl]; exact h
  · next p rest hi => exact ⟨p, rest, .inl hi, h⟩
  · cases h
  · cases h

/-- A reset edge of one host that keeps its offer is not refused. -/
theorem edgeRefusal_none_of_rst {p : PortIn} {s : State} (hr : p.rst = true) (ha : p.agents ≤ 1)
    (ho : s.offered = none ∨ p.offer = s.offered) : edgeRefusal p s = none := by
  have : ¬ 2 ≤ p.agents := by omega
  have hb : breaksOffer p s = false := by rcases ho with h | h <;> simp [breaksOffer, h]
  simp [edgeRefusal, this, hb, hr]

/-- After the first reset, an edge of one host that keeps its offer and does not change the command as it is accepted is not
refused. -/
theorem edgeRefusal_none {p : PortIn} {s : State} (ha : p.agents ≤ 1) (ho : s.offered = none ∨ p.offer = s.offered)
    (hw : s.wasReset = true) (hc : p.cmdValid = false ∨ s.busy = true ∨ p.commandChanging = false) :
    edgeRefusal p s = none := by
  have : ¬ 2 ≤ p.agents := by omega
  have hb : breaksOffer p s = false := by rcases ho with h | h <;> simp [breaksOffer, h]
  simp only [edgeRefusal, this, hb, hw]
  rcases hc with h | h | h <;> simp [h, cmdReady]

/-- A block with BUSY = 0 has no command, no response, no event and nothing on the trace port (R43, R254, R256). -/
theorem idle_facts {s : State} (hI : BlockInv s) (hw : s.wasReset = true) (hb : s.busy = false) :
    s.rspValid = false ∧ s.answer = none ∧ s.wait = 0 ∧ s.events = [] ∧ s.trcPort = none := by
  obtain ⟨hs, ⟨hbb, hx, hw', hw0⟩, ⟨hst, hst2⟩, ⟨ht1, ht2, ht3⟩⟩ := hI.2 hw
  have hv : s.rspValid = false := by cases h : s.rspValid <;> simp_all
  have ha : s.answer = none := by cases h : s.answer <;> simp_all
  have h0 : s.events = [] := by have := hw0 ha; rw [this] at ht3; exact List.length_eq_zero_iff.1 (by omega)
  exact ⟨hv, ha, hw0 ha, h0, ht2 hb⟩

/-- A block whose response is valid is busy, has no command in progress and has presented every event (R254, R256). -/
theorem valid_facts {s : State} (hI : BlockInv s) (hw : s.wasReset = true) (hv : s.rspValid = true) :
    s.busy = true ∧ s.answer = none ∧ s.wait = 0 ∧ s.events = [] ∧ s.rspStatus ≠ 3#2 := by
  obtain ⟨hs, ⟨hbb, hx, hw', hw0⟩, ⟨hst, hst2⟩, ⟨ht1, ht2, ht3⟩⟩ := hI.2 hw
  have ha : s.answer = none := by cases h : s.answer <;> simp_all
  have h0 : s.events = [] := by have := hw0 ha; rw [this] at ht3; exact List.length_eq_zero_iff.1 (by omega)
  exact ⟨by simp [hbb, hv], ha, hw0 ha, h0, hst2 hv⟩

/-- Every latency is at least 1 (R8, R258). -/
theorem commandLatency_pos (c : Command) {s : State} (h : s.cfg.wellFormed = true) : 1 ≤ commandLatency c s := by
  simp [Config.wellFormed] at h
  unfold commandLatency
  repeat' split
  all_goals omega

/-- What the host drives next changes no instruction's effect. -/
theorem exec_withInputs (i : Instr) (l : List HostEvent) (s : State) :
    exec i (withInputs l s) = afterNext (withInputs l) (exec i s) := by
  cases i with
  | seed a b =>
    show execSeed a b _ = afterNext _ (execSeed a b s)
    simp only [execSeed, advance, emitTrace, seedAdd, seedPrepare, respond, withInputs]
    by_cases h : s.trc = true <;> simp [h] <;> rfl
  | roll =>
    show execRoll _ = afterNext _ (execRoll s)
    simp only [execRoll, advance, emitTrace, respond, raiseError, withInputs]
    by_cases h : s.trc = true <;> by_cases h2 : s.seeded = true <;> simp [h, h2] <;> rfl
  | jump d =>
    show execJump d _ = afterNext _ (execJump d s)
    simp only [execJump, emitTrace, respond, raiseError, withInputs, countJump, applyJump, runJumpCircuit, openJumpRegs]
    by_cases h : s.trc = true <;> by_cases h2 : s.seeded = true <;> simp [h, h2] <;> rfl
  | trace => rfl
  | rdstate => rfl
  | rdinc => rfl
  | rdstep => rfl
  | rdstat => rfl

/-- What the host drives next changes no transfer's effect. -/
theorem runCommand_withInputs (c : Command) (l : List HostEvent) (s : State) :
    runCommand c (withInputs l s) = afterNext (withInputs l) (runCommand c s) := by
  unfold runCommand
  split
  · exact exec_withInputs _ _ _
  · rfl

/-- What the host drives next changes no transaction. -/
theorem transact_withInputs (c : Command) (l : List HostEvent) (s : State) :
    transact c (withInputs l s) = afterNext (withInputs l) (transact c s) := by
  have hr : ∀ u : State, retire (withInputs l u) = withInputs l (retire u) := by
    intro u; unfold retire withInputs; simp only; split <;> rfl
  have ha : acceptCommand (withInputs l s) = withInputs l (acceptCommand s) := rfl
  unfold transact
  cases hw : s.wasReset
  · simp [hw]
  · rw [ha, runCommand_withInputs]
    cases runCommand c (acceptCommand s) <;> simp [hw, hr]

end Sys2Proof.Machine
end

