-- ==== Sys2Proof/Tests/Slice0.lean ====
section
/-! SUPPORT. Tests: words written out from R83, the vectors of 95_test_vectors.md (named where they are used), the checks of
WellFormed on ill-formed terms, and for every statement with hypotheses a case that meets them. -/

namespace Sys2Proof.Tests

open Sys2Proof.Machine

/-! ### WellFormed refuses ill-formed terms -/

theorem test_refuses_reserved_bits : Command.reservedBitsClear ⟨0b00010010#8, 0, 0⟩ = false := by decide
theorem test_refuses_opcode_0 : Command.opcodeAssigned ⟨0b00000000#8, 0, 0⟩ = false := by decide
theorem test_refuses_opcode_9 : Command.opcodeAssigned ⟨0b00001001#8, 0, 0⟩ = false := by decide
theorem test_refuses_bad_commands :
    Command.wellFormed ⟨0b00010010#8, 0, 0⟩ = false ∧ Command.wellFormed ⟨0b00001111#8, 0, 0⟩ = false := by decide
theorem test_refuses_raw_words_out_of_range :
    AsmLine.wellFormed (.cmd 256 0 0) = false ∧ AsmLine.wellFormed (.cmd (-1) 0 0) = false ∧
    AsmLine.wellFormed (.cmd 255 0 0) = true := by decide
theorem test_refuses_a_latency_of_0 :
    Config.wellFormed { Config.reference with latSeed := 0 } = false ∧
    Config.wellFormed { Config.reference with latRoll := 0 } = false ∧
    Config.wellFormed { Config.reference with latJump := 0 } = false ∧
    Config.wellFormed { Config.reference with latOther := 0 } = false ∧ Config.reference.wellFormed = true := by decide

theorem test_refuses_a_step_width_of_0_or_129 :
    Config.wellFormed { Config.reference with wStep := 0 } = false ∧
    Config.wellFormed { Config.reference with wStep := 129 } = false ∧
    Config.wellFormed { Config.reference with wStep := 128 } = true ∧
    Config.wellFormed { Config.reference with wStep := 1 } = true := by decide

/-- A 64-bit host bus that carries the high word first. -/
def highWordFirst : BusMap where
  width := 64
  beats := 2
  place := (List.range 64).map (· + 64) ++ List.range 64

/-- One ill-formed map for each check. -/
theorem test_refuses_bad_bus_maps :
    highWordFirst.wellFormed = true ∧ BusMap.wellFormed { highWordFirst with width := 0 } = false ∧
    BusMap.wellFormed { highWordFirst with width := 128 } = false ∧
    BusMap.wellFormed { highWordFirst with place := List.range 127 } = false ∧
    BusMap.wellFormed { highWordFirst with place := 1 :: (List.range 128).tail } = false ∧
    BusMap.wellFormed { highWordFirst with beats := 1 } = false ∧
    Config.wellFormed { Config.reference with hostBusMap := some { highWordFirst with beats := 1 } } = false := by
  decide +kernel

/-- The two halves of the multiplier (R7), the high one first, reach the port as the multiplier, and leave it so. -/
theorem test_bus_high_word_first :
    fromBus (some highWordFirst) [2549297995355413924, 4865540595714422341] = 0x2360ED051FC65DA44385DF649FCCF645 ∧
    toBus (some highWordFirst) 0 0x2360ED051FC65DA44385DF649FCCF645 = [2549297995355413924, 4865540595714422341] := by
  decide +kernel

/-! ### Decoding: words written bit by bit from R81 and R83 -/

theorem test_decode_seed : decode ⟨0b00000001#8, 42, 54⟩ = .instr (.seed 42 54) := by decide
theorem test_decode_roll : decode ⟨0b00000010#8, 1, 2⟩ = .instr .roll := by decide
theorem test_decode_jump : decode ⟨0b00000011#8, 7, 2⟩ = .instr (.jump 7) := by decide
theorem test_decode_trace : decode ⟨0b00000100#8, 1, 2⟩ = .instr .trace := by decide
theorem test_decode_rdstate : decode ⟨0b00000101#8, 1, 2⟩ = .instr .rdstate := by decide
theorem test_decode_rdinc : decode ⟨0b00000110#8, 1, 2⟩ = .instr .rdinc := by decide
theorem test_decode_rdstep : decode ⟨0b00000111#8, 1, 2⟩ = .instr .rdstep := by decide
theorem test_decode_rdstat : decode ⟨0b00001000#8, 1, 2⟩ = .instr .rdstat := by decide
/-- V-ERR-1 to V-ERR-5, V-ERR-8. -/
theorem test_decode_illegal :
    decode ⟨0x00, 0, 0⟩ = .illegal .reservedOpcode ∧ decode ⟨0x09, 0, 0⟩ = .illegal .reservedOpcode ∧
    decode ⟨0x0F, 0, 0⟩ = .illegal .reservedOpcode ∧ decode ⟨0x12, 0, 0⟩ = .illegal .reservedBits ∧
    decode ⟨0xF1, 42, 54⟩ = .illegal .reservedBits ∧ decode ⟨0x13, 0, 0⟩ = .illegal .reservedBits := by decide
theorem test_decode_table_words :
    decodeTableWord 8 0x02 = some .roll ∧ decodeTableWord 8 0x01 = some (.seed 0 0) ∧ decodeTableWord 8 0x20 = none ∧
    decodeTableWord 264 (0x01 + 2 ^ 8 * 42 + 2 ^ 136 * 54) = some (.seed 42 54) := by decide +kernel
/-- The next step runs the placed word, for a row that an unseeded block runs and for one it answers with NOT_SEEDED. -/
theorem test_step_runs_the_placed_word :
    (match step (State.reset.withFetchWord 8 0x04) with
      | .next t => t.trc && t.answer == some ⟨0, 1⟩
      | .fault _ => false
      | .refused _ => false) = true ∧
    (match step (State.reset.withFetchWord 8 0x02) with
      | .next t => t.answer == some ⟨2, 0⟩
      | .fault _ => false
      | .refused _ => false) = true := by decide +kernel

/-! ### The datapath: 95_test_vectors.md 2.1, 2.2, 2.4, 2.5 -/

/-- S1, R7: the decimal value of the multiplier. -/
theorem test_mul_value : Config.MUL.toNat = 47026247687942121848144207491837523525 := by decide
/-- V-ARITH-1 to V-ARITH-6. -/
theorem test_add_mul_fold :
    add128 (-1) 1 = 0 ∧ add128 0x6D 0x2A = 0x97 ∧ mul128 0x10000000000000000 0x10000000000000000 = 0 ∧
    mul128 0x80000000000000000000000000000000 3 = 0x80000000000000000000000000000000 ∧
    mul128 Config.MUL Config.MUL = 0x17BCE35BDF69743C529ED9EB20E0AE99 ∧
    fold64 0x0123456789ABCDEFFEDCBA9876543210 = 0xFFFFFFFFFFFFFFFF := by decide
/-- V-ARITH-7. -/
theorem test_incval :
    incval 54 = 0x6D ∧ incval 0 = 1 ∧ incval 0x80000000000000000000000000000000 = 1 ∧ incval (-1) = -1 := by decide
/-- V-ARITH-8 to V-ARITH-11. -/
theorem test_rotr :
    rotr64 1 1 = 0x8000000000000000 ∧ rotr64 0x0123456789ABCDEF 0 = 0x0123456789ABCDEF ∧
    rotr64 0x8000000000000001 63 = 3 ∧ rotr64 0x0123456789ABCDEF 4 = 0xF0123456789ABCDE := by decide
/-- V-ARITH-12. -/
theorem test_or : or128 0x6D 0x03 = 0x6F := by decide
/-- R113. -/
theorem test_top6 : top6 0x80000000000000000000000000000000 = 32 ∧ top6 (-1) = 63 := by decide
/-- V-XSL-4 to V-XSL-8. -/
theorem test_xslrr :
    xslrr 0x04000000000000000000000000000000 = 0x0200000000000000 ∧
    xslrr 0x80000000000000000000000000000000 = 0x0000000080000000 ∧ xslrr (-1) = 0 ∧
    xslrr 0xFC000000000000000000000000000001 = 0xF800000000000003 ∧
    xslrr 0x0123456789ABCDEFFEDCBA9876543210 = 0xFFFFFFFFFFFFFFFF := by decide
/-- V-ADV-2. -/
theorem test_advance :
    (advance { State.reset with state := 1, inc := 1 }).state = 0x2360ED051FC65DA44385DF649FCCF646 := by decide
/-- V-COEF-2: the variant that squares CUR_M first gives another ACC_P. -/
theorem test_coefficients_of_2 :
    (jumpCoef 0x6D 2).accM = 0x17BCE35BDF69743C529ED9EB20E0AE99 ∧
    (jumpCoef 0x6D 2).accP = 0x1044EB2E8775DEF0C0001DD80A44DBCE := by decide +kernel
/-- V-COEF-3. -/
theorem test_coefficients_of_3 :
    (jumpCoef 0x6D 3).accM = 0x25F041404BD80E82EB5AE837ED42153D ∧
    (jumpCoef 0x6D 3).accP = 0x2BB1B94CA75C5C9FEDA2E6F509EF32F3 := by decide +kernel
/-- V-COEF-4. -/
theorem test_coefficients_of_minus_1 :
    (jumpCoef 0x6D (-1)).accM = 0x07DDA22B9397986098ABC8B0716EAC8D ∧
    (jumpCoef 0x6D (-1)).accP = 0xA6A1F37228741EDEFEDB8CDFB3E087F7 := by decide +kernel

/-! ### One command each: 95_test_vectors.md 2.3 to 2.8 -/

/-- The registers of R30 and the response after a command, if it ends in a next state. -/
def after (r : Result) : Option (ArchRegs × Option Response) :=
  match r with
  | .next t => some (archOf t, t.answer)
  | .fault _ => none
  | .refused _ => none

/-- The events of a command, if it ends in a next state. -/
def eventsAfter (r : Result) : Option (List TraceEvent) :=
  match r with
  | .next t => some t.events
  | .fault _ => none
  | .refused _ => none

/-- The block after reset and `SEED 42, 54` (V-SEED-2). -/
def seededBlock : State :=
  { State.reset with state := 0xDE2BCE05BE013BE3D3F6C45A41E54320, inc := 0x6D, stepCount := 2, seeded := true }

/-- V-SEED-2. -/
theorem test_seed :
    after (exec (.seed 42 54) State.reset) =
      some (archOf seededBlock, some ⟨0, 0xDE2BCE05BE013BE3D3F6C45A41E54320⟩) := by decide +kernel
/-- V-SEED-6, V-SEED-7, V-SEED-8, V-SEED-9: a re-seed under the four parameter values. -/
theorem test_reseed :
    (after (exec (.seed 42 1) seededBlock)).map (fun r => (r.1.state, r.1.inc)) =
      some (0xA110F31AD9E504145B44453D73240DCC, 0x6F) ∧
    (after (exec (.seed 42 1) { seededBlock with cfg := { Config.reference with seedIncMode := .replace } })).map
      (fun r => (r.1.state, r.1.inc)) = some (0xB42CF4F1723582C7DECA06CA08AC2844, 0x3) ∧
    (after (exec (.seed 42 1) { seededBlock with cfg := { Config.reference with seedClearState := true } })).map
      (fun r => (r.1.state, r.1.inc)) = some (0x24EDA80FFD8DF72C5B028323817F2FAC, 0x6F) ∧
    (after (exec (.seed 42 1)
      { seededBlock with cfg := { Config.reference with seedIncMode := .replace, seedClearState := true } })).map
      (fun r => (r.1.state, r.1.inc)) = some (0x3809A9E695DE75DFDE8844B017074A24, 0x3) := by decide +kernel
/-- V-ROLL-1, first row; V-ROLL-2 is the answer of a model that permutes the state before the advance. -/
theorem test_roll :
    after (exec .roll seededBlock) =
      some (⟨0x10AF065F4EA96E857BB2A7886ECBD80D, 0x6D, 3, false, true⟩, some ⟨0, 0x86B1DA1D72062B68⟩) := by decide +kernel
/-- V-ROLL-3, V-ERR-9. -/
theorem test_roll_unseeded :
    after (exec .roll { State.reset with trc := true }) = some (⟨0, 0, 0, true, false⟩, some ⟨2, 0⟩) ∧
    eventsAfter (exec .roll { State.reset with trc := true }) = some [] := by decide +kernel
/-- V-JUMP-3, V-JUMP-4, V-JUMP-5. -/
theorem test_jump :
    after (exec (.jump 6) seededBlock) =
      some (⟨0x67232E702845F3B996E40D53048531FA, 0x6D, 8, false, true⟩, some ⟨0, 0⟩) ∧
    (after (exec (.jump (-1)) seededBlock)).map (fun r => (r.1.state, r.1.stepCount)) = some (0x97, 1) ∧
    (after (exec (.jump 0x80000000000000000000000000000000) seededBlock)).map (fun r => r.1.state) =
      some 0x5E2BCE05BE013BE3D3F6C45A41E54320 := by decide +kernel
/-- V-JUMP-11. -/
theorem test_jump_unseeded : after (exec (.jump 5) State.reset) = some (⟨0, 0, 0, false, false⟩, some ⟨2, 0⟩) := by
  decide +kernel
/-- V-ACC-2: the second TRACE. -/
theorem test_trace :
    after (exec .trace { State.reset with trc := true }) = some (⟨0, 0, 0, false, false⟩, some ⟨0, 2⟩) := by decide +kernel
/-- V-ACC-4, V-ACC-5. -/
theorem test_reads :
    after (exec .rdstate seededBlock) = some (archOf seededBlock, some ⟨0, 0xDE2BCE05BE013BE3D3F6C45A41E54320⟩) ∧
    after (exec .rdinc seededBlock) = some (archOf seededBlock, some ⟨0, 0x6D⟩) ∧
    after (exec .rdstep seededBlock) = some (archOf seededBlock, some ⟨0, 2⟩) ∧
    (after (exec .rdstat seededBlock)).map Prod.snd = some (some ⟨0, 1⟩) ∧
    (after (exec .rdstat { seededBlock with trc := true })).map Prod.snd = some (some ⟨0, 3⟩) := by decide +kernel
/-- V-TRC-2. -/
theorem test_trace_events_of_seed :
    eventsAfter (exec (.seed 0 0) { State.reset with trc := true }) =
      some [⟨.adv, 1⟩, ⟨.adv, 0x2360ED051FC65DA44385DF649FCCF646⟩] := by decide +kernel
/-- V-TRC-3: one JMP event and no ADV event. -/
theorem test_trace_events_of_jump :
    eventsAfter (exec (.jump 1)
      { State.reset with state := 0x2360ED051FC65DA44385DF649FCCF646, inc := 1, seeded := true, trc := true }) =
      some [⟨.jmp, 0x3B1DD060FF2FD1E09624B94FC0ADA4DF⟩] := by decide +kernel
/-- V-ERR-5. -/
theorem test_illegal_word_has_no_effect :
    after (runCommand ⟨0xF1, 42, 54⟩ seededBlock) = some (archOf seededBlock, some ⟨1, 0⟩) := by decide +kernel

/-! ### The assembler: the lines of R89, R90 and P2 -/

theorem test_line_seed :
    assemble [['S', 'E', 'E', 'D', ' ', '4', '2', ',', ' ', '5', '4']] = some [.command ⟨0x01, 0x2A, 0x36⟩] := by decide
theorem test_line_rewind :
    assemble [['r', 'e', 'w', 'i', 'n', 'd', ' ', '3', ' ', ';', ' ', 'x']] =
      some [.command ⟨0x03, 0xFFFFFFFFFFFFFFFFFFFFFFFFFFFFFFFD, 0⟩] := by decide
theorem test_line_raw_and_reset :
    assemble [['.', 'c', 'm', 'd', ' ', '0', 'x', '1', '2'], ['.', 'r', 'e', 's', 'e', 't']] =
      some [.command ⟨0x12, 0, 0⟩, .reset] := by decide
theorem test_line_refuses_an_ignored_operand : assemble [['R', 'O', 'L', 'L', ' ', '1']] = none := by decide
theorem test_line_refuses_a_raw_word_of_256 : assemble [['.', 'c', 'm', 'd', ' ', '2', '5', '6']] = none := by decide

/-! ### Witnesses: a case that meets each statement's hypotheses -/

/-- A command that is being answered: TRACE one cycle before its response is valid. -/
def answeringBlock : State := { State.reset with trc := true, busy := true, answer := some ⟨0, 1⟩, wait := 1 }

/-- A block whose response is valid. -/
def validBlock : State := { State.reset with rspValid := true, busy := true, rspData := 1, trc := true }

/-- A seeded, traced block two cycles before the end of a ROLL whose latency is 2. -/
def rollingBlock : State :=
  { seededBlock with trc := true, busy := true, answer := some ⟨0, 5⟩, wait := 2, events := [⟨.adv, 7⟩] }

/-- An idle edge at which the trace port is sampled and the response taken. -/
def takeEdge : PortIn := PortIn.take

/-- A reset edge. -/
def resetPort : PortIn := { PortIn.idle with rst := true }

/-- `rst` has been seen, and the block meets the invariant. -/
def Good (s : State) : Prop := BlockInv s ∧ s.wasReset = true

/-- A block after its first reset and before its first SEED, after a TRACE. -/
def tracedBlock : State := { State.reset with trc := true }

theorem witness_invariant : Good tracedBlock ∧ Good seededBlock ∧ Good answeringBlock ∧ Good validBlock ∧ Good rollingBlock ∧
    Ready seededBlock ∧ Ready State.reset := by
  simp [Good, Ready, tracedBlock, wrapStep, BlockInv, SeedingInv, HandshakeInv, StatusInv, TraceInv, seededBlock, answeringBlock, validBlock,
    rollingBlock, State.reset, Config.reference, Config.wellFormed]

/-- Both branches of a negative integer's residue (R91). -/
theorem witness_IntegersReachTheBusAsResidues :
    (-1 : Int) < 0 ∧ trunc128 (-1) = 0xFFFFFFFFFFFFFFFFFFFFFFFFFFFFFFFF ∧ trunc128 (-(2 ^ 128)) = 0 := by decide

theorem witness_MnemonicsIgnoreCase :
    (['R', 'o', 'L', 'l'] : List Char).head? ≠ some '.' ∧ lineOf ['R', 'o', 'L', 'l'] [] = some .roll := by decide

theorem witness_FirstSeedIgnoresTheParameters :
    BlockInv tracedBlock ∧ tracedBlock.wasReset = true ∧ tracedBlock.seeded = false := ⟨witness_invariant.1.1, rfl, rfl⟩

/-- Both sides occur, in two different blocks: selectors that differ in bit 127 alone, and in bit 0. -/
theorem witness_StreamsDifferByTheLow127Bits :
    (BlockInv tracedBlock ∧ tracedBlock.wasReset = true ∧ tracedBlock.seeded = false) ∧
    (after (exec (.seed 1 0) State.reset)).map (fun r => r.1.inc) =
      (after (exec (.seed 1 0x80000000000000000000000000000000) tracedBlock)).map (fun r => r.1.inc) ∧
    (after (exec (.seed 1 0) State.reset)).map (fun r => r.1.inc) ≠
      (after (exec (.seed 1 1) tracedBlock)).map (fun r => r.1.inc) ∧
    (after (exec (.seed 1 0) State.reset)).isSome = true :=
  ⟨witness_FirstSeedIgnoresTheParameters, by decide +kernel⟩

/-- For the statements about a seeded block, with and without the invariant, and about an unseeded one. -/
theorem witness_seeded_and_unseeded :
    BlockInv seededBlock ∧ seededBlock.wasReset = true ∧ seededBlock.seeded = true ∧ State.reset.seeded = false :=
  ⟨witness_invariant.2.1.1, rfl, rfl, rfl⟩

/-- Bit 63 of an output whose rotation is 63 (V-XSL-7). -/
theorem witness_OutputIsTheFoldRotatedRight :
    (63 : Nat) < 64 ∧ (63 + (0xFC000000000000000000000000000001 : U128).toNat / 2 ^ 122) % 64 = 62 ∧
    (xslrr 0xFC000000000000000000000000000001).getLsbD 63 = true := by decide

/-- Both ends of the signed range (R35). -/
theorem witness_StepReadsBackTheSignedDistance :
    ({ seededBlock with stepCount := 0 } : State).seeded = true ∧ ({ seededBlock with stepCount := 0 } : State).stepCount = 0 ∧
    signedView 128 (trunc128 (-(2 ^ 127))) = -(2 ^ 127) ∧ signedView 128 (trunc128 (-(-2 ^ 127 + 1))) = 2 ^ 127 - 1 ∧
    signedView 8 (wrapStep 8 (trunc128 (-3))) = -3 := by decide +kernel

theorem witness_GeneratorHasFullPeriod : (0x6D : U128).getLsbD 0 = true := by decide

theorem witness_ReadsAnswerAndChangeNothing :
    (BlockInv seededBlock ∧ seededBlock.wasReset = true ∧ seededBlock.inc.getLsbD 0 = true) ∧
    BlockInv State.reset ∧ State.reset.inc.getLsbD 0 = false :=
  ⟨⟨witness_invariant.2.1.1, rfl, by decide⟩,
    ⟨by decide, fun _ => by simp [SeedingInv, HandshakeInv, StatusInv, TraceInv, State.reset, wrapStep]⟩, by decide⟩

/-- Each disjunct: RSV ≠ 0, OPC 0x0, and both ends of 0x9 to 0xF. -/
theorem witness_IllegalWordsAnswerIllegalCommand :
    (0x10#8).toNat / 16 ≠ 0 ∧ (0x00#8).toNat % 16 = 0 ∧ 9 ≤ (0x09#8).toNat % 16 ∧ 9 ≤ (0x0F#8).toNat % 16 := by decide

/-- Both errors answer. -/
theorem witness_ErrorsHaveNoEffect :
    (∃ t r, runCommand ⟨0x00, 0, 0⟩ seededBlock = .next t ∧ t.answer = some r ∧ r.status ≠ 0) ∧
    (∃ t r, runCommand ⟨0x03, 7, 0⟩ State.reset = .next t ∧ t.answer = some r ∧ r.status ≠ 0) :=
  ⟨⟨_, _, rfl, rfl, by decide⟩, ⟨_, _, rfl, rfl, by decide⟩⟩

/-- A command raised while `rst` was 1 and held, and one that nothing raised before. -/
theorem witness_StepRunsTheDecodedInstruction :
    (PortIn.present ⟨0x02, 0, 0⟩).rst = false ∧ (PortIn.present ⟨0x02, 0, 0⟩).cmdValid = true ∧
    (PortIn.present ⟨0x02, 0, 0⟩).commandChanging = false ∧ (PortIn.present ⟨0x02, 0, 0⟩).agents ≤ 1 ∧
    seededBlock.wasReset = true ∧ seededBlock.busy = false ∧ seededBlock.rspValid = false ∧ seededBlock.offered = none ∧
    ({ seededBlock with offered := some ⟨0x02, 0, 0⟩ } : State).offered = some (PortIn.present ⟨0x02, 0, 0⟩).command ∧
    decode (PortIn.present ⟨0x02, 0, 0⟩).command = .instr .roll := by decide

/-- An illegal word raised at the edge, and one held since an edge with BUSY = 1. -/
theorem witness_StepAnswersIllegalWords :
    BlockInv { withInputs [.edge (PortIn.present ⟨0x12, 0, 0⟩)] seededBlock with offered := some ⟨0x12, 0, 0⟩ } ∧
    seededBlock.wasReset = true ∧ seededBlock.busy = false ∧ seededBlock.offered = none ∧
    decode (PortIn.present ⟨0x12, 0, 0⟩).command = .illegal .reservedBits :=
  ⟨witness_invariant.2.1.1, rfl, rfl, rfl, by decide⟩

/-- An offer raised during reset and one held through it; a reset edge that abandons a command in progress. -/
theorem witness_ResetEdgeClearsEverything :
    resetPort.rst = true ∧ resetPort.agents ≤ 1 ∧ seededBlock.offered = none ∧
    ({ resetPort with cmdValid := true, command := ⟨0x02, 0, 0⟩ } : PortIn).offer =
      ({ seededBlock with offered := some ⟨0x02, 0, 0⟩ } : State).offered := by decide

theorem witness_ResetDrivesThePorts :
    ∃ t, step (withInputs [.edge resetPort] rollingBlock) = .next t ∧ t.busy = false := ⟨_, rfl, rfl⟩

theorem witness_ResponseIsHeldUntilTaken :
    BlockInv (withInputs [.edge PortIn.idle] validBlock) ∧ validBlock.wasReset = true ∧ validBlock.rspValid = true ∧
    PortIn.idle.rst = false ∧ PortIn.idle.rspReady = false ∧ PortIn.idle.agents ≤ 1 ∧ validBlock.offered = none :=
  ⟨witness_invariant.2.2.2.1.1, rfl, rfl, rfl, rfl, by decide, rfl⟩

theorem witness_TakingTheResponseFreesThePort :
    BlockInv (withInputs [.edge takeEdge] validBlock) ∧ validBlock.wasReset = true ∧ validBlock.rspValid = true ∧
    takeEdge.rst = false ∧ takeEdge.rspReady = true ∧ takeEdge.agents ≤ 1 ∧ validBlock.offered = none :=
  ⟨witness_invariant.2.2.2.1.1, rfl, rfl, rfl, rfl, by decide, rfl⟩

theorem witness_IdleBlockHoldsEveryRegister :
    (BlockInv (withInputs [.edge PortIn.idle] seededBlock) ∧ Ready (withInputs [.edge PortIn.idle] seededBlock)) ∧
    step (withInputs [.clockStops] seededBlock) = .refused .clockStopped ∧
    step (withInputs [.powerLost] seededBlock) = .refused .powerLost :=
  ⟨⟨witness_invariant.2.1.1, rfl, rfl, rfl⟩, rfl, rfl⟩

/-- A withdrawn command, a changed one, one dropped after a reset edge of a block in any state, and one changed at the accepting
edge, raised there or held until it. -/
theorem witness_BrokenHandshakeIsRefused :
    (∃ t, step (withInputs [.edge (PortIn.present ⟨0x02, 0, 0⟩), .edge PortIn.idle] answeringBlock) = .next t ∧
      step t = .refused .commandWithdrawn) ∧
    (∃ t, step (withInputs [.edge (PortIn.present ⟨0x02, 0, 0⟩), .edge (PortIn.present ⟨0x04, 0, 0⟩)] answeringBlock) =
      .next t ∧ step t = .refused .commandWithdrawn) ∧
    (∃ t, step (withInputs [.edge { PortIn.present ⟨0x02, 0, 0⟩ with rst := true }, .edge PortIn.idle] poweredUp) =
      .next t ∧ step t = .refused .commandWithdrawn) ∧
    step (withInputs [.edge { PortIn.present ⟨0x02, 0, 0⟩ with commandChanging := true }] seededBlock) =
      .refused .commandChangedAtEdge ∧
    step (withInputs [.edge { PortIn.present ⟨0x02, 0, 0⟩ with commandChanging := true }]
      { seededBlock with offered := some ⟨0x02, 0, 0⟩ }) = .refused .commandChangedAtEdge :=
  ⟨⟨_, rfl, rfl⟩, ⟨_, rfl, rfl⟩, ⟨_, rfl, rfl⟩, rfl, rfl⟩

theorem witness_UnmodelledConfigurationsAreRefused :
    step (withInputs [.edge { PortIn.idle with agents := 2 }] seededBlock) = .refused .unarbitratedPort ∧
    step (withInputs [.edge (PortIn.present ⟨0x01, 0, 0⟩)] poweredUp) = .refused .commandBeforeReset ∧
    runActions [.command ⟨0x01, 0, 0⟩] poweredUp = .refused .commandBeforeReset := ⟨rfl, rfl, rfl⟩

/-- The edges of a host that keeps `rsp_ready` at 1 and raises its next command at the second of them. -/
def eagerEdges : List PortIn :=
  [{ PortIn.idle with rspReady := true }, { PortIn.present ⟨0x05, 0, 0⟩ with rspReady := true }]

/-- A command with one cycle to go, the least there is, under an idle edge; and one with two, under a host that has `rsp_ready` at
1 and raises its next command, at whose first edge nothing is valid yet. -/
theorem witness_ResponseArrivesAfterTheLatency :
    (BlockInv (withInputs [.edge PortIn.idle] answeringBlock) ∧ answeringBlock.wasReset = true ∧
      answeringBlock.answer = some ⟨0, 1⟩ ∧ [PortIn.idle].length = answeringBlock.wait ∧
      HoldsOffers answeringBlock.offered [PortIn.idle]) ∧
    BlockInv (withInputs (eagerEdges.map .edge) rollingBlock) ∧ eagerEdges.length = rollingBlock.wait ∧
      (∀ p ∈ eagerEdges, p.rst = false ∧ p.agents ≤ 1) ∧ HoldsOffers rollingBlock.offered eagerEdges :=
  ⟨⟨witness_invariant.2.2.1.1, rfl, rfl, rfl, .inl rfl, trivial⟩,
    witness_invariant.2.2.2.2.1.1, rfl, by decide, .inl rfl, .inl rfl, trivial⟩

/-- R88: the two tags, and an untraced block. -/
theorem witness_PortsShowTheBlock :
    (portOut false { seededBlock with trcPort := some ⟨.adv, 7⟩ }).trcTag = 1 ∧
    (portOut false { seededBlock with trcPort := some ⟨.jmp, 7⟩ }).trcTag = 2 ∧
    (BlockInv seededBlock ∧ seededBlock.wasReset = true ∧ seededBlock.trc = false) ∧
    validBlock.wasReset = true ∧ validBlock.rspValid = true :=
  ⟨by decide, by decide, ⟨witness_invariant.2.1.1, rfl, rfl⟩, rfl, rfl⟩

/-- The high word first: bit 127 stands in the first word, bit 0 in the second; and a whole-value bus is legal too. -/
theorem witness_BusMapCarriesEveryValue :
    highWordFirst.wellFormed = true ∧ highWordFirst.place[127]? = some 63 ∧ highWordFirst.place[0]? = some 64 ∧
    Config.wellFormed { Config.reference with hostBusMap := some highWordFirst } = true ∧
    Config.reference.wellFormed = true := by decide +kernel

theorem witness_EventsComeBeforeTheResponseIsTaken :
    BlockInv (withInputs [.edge takeEdge] validBlock) ∧
    ∃ t, step (withInputs [.edge takeEdge] validBlock) = .next t ∧ t.taken ≠ validBlock.taken :=
  ⟨witness_invariant.2.2.2.1.1, _, rfl, by decide +kernel⟩

/-- An edge that presents an event, and one that samples it. -/
theorem witness_TraceEventsGoOutOnePerCycle :
    (∃ t, step (withInputs [.edge PortIn.watch] { rollingBlock with wait := 1 }) = .next t ∧ t.trcPort = some ⟨.adv, 7⟩) ∧
    (∃ t, step (withInputs [.edge PortIn.watch] { rollingBlock with trcPort := some ⟨.adv, 3⟩ }) = .next t ∧
      t.traceLog = [⟨.adv, 3⟩]) :=
  ⟨⟨_, rfl, rfl⟩, ⟨_, rfl, rfl⟩⟩

theorem witness_ReservedStatusIsAFault :
    step (withInputs [.edge PortIn.idle] { validBlock with rspStatus := 3 }) = .fault .reservedStatus := rfl

/-- A step of a block in the middle of a command. -/
theorem witness_EveryStepKeepsTheInvariant : BlockInv rollingBlock ∧ ∃ t, step rollingBlock = .next t :=
  ⟨witness_invariant.2.2.2.2.1.1, _, rfl⟩

/-- The same block witnesses the two statements about every step after the first reset. -/
theorem witness_NoStepFaults : BlockInv rollingBlock ∧ rollingBlock.wasReset = true :=
  ⟨witness_invariant.2.2.2.2.1.1, rfl⟩

/-- Each case: a reset edge, a TRACE that is accepted, an edge that accepts nothing. -/
theorem witness_OnlyTheNamedCommandsWriteRegisters :
    (∃ t, step (withInputs [.edge resetPort] seededBlock) = .next t ∧ t.state ≠ seededBlock.state) ∧
    (∃ t, step (withInputs [.edge (PortIn.present ⟨0x04, 0, 0⟩)] seededBlock) = .next t ∧ t.trc ≠ seededBlock.trc) ∧
    (∃ t, step rollingBlock = .next t ∧ t.state = rollingBlock.state) :=
  ⟨⟨_, rfl, by decide +kernel⟩, ⟨_, rfl, by decide +kernel⟩, ⟨_, rfl, rfl⟩⟩

theorem witness_HandshakeIsOneTransaction :
    BlockInv (withInputs (driveCommand (commandLatency ⟨0x02, 0, 0⟩ seededBlock) ⟨0x02, 0, 0⟩) seededBlock) ∧
    Ready (withInputs (driveCommand (commandLatency ⟨0x02, 0, 0⟩ seededBlock) ⟨0x02, 0, 0⟩) seededBlock) :=
  ⟨witness_invariant.2.1.1, rfl, rfl, rfl⟩

/-- The witness of the statements about programs from a ready block, and a read to insert. -/
theorem witness_programs : BlockInv seededBlock ∧ Ready seededBlock ∧ isRead .rdstep = true :=
  ⟨witness_invariant.2.1.1, ⟨rfl, rfl, rfl⟩, rfl⟩

/-- Two blocks that agree in STATE, INC and SEEDED and differ in STEP and TRC, and a command the statement compares. -/
theorem witness_GenerationDependsOnStateAndIncAlone :
    let s' : State := { seededBlock with stepCount := 9, trc := true }
    seededBlock.state = s'.state ∧ seededBlock.inc = s'.inc ∧ seededBlock.seeded = s'.seeded ∧ seededBlock.cfg = s'.cfg ∧
    seededBlock ≠ s' ∧ (commandsOf [.reset, .command ⟨0x02, 0, 0⟩])[0]? = some ⟨0x02, 0, 0⟩ ∧
    decode ⟨0x02, 0, 0⟩ ≠ .instr .trace ∧ decode ⟨0x02, 0, 0⟩ ≠ .instr .rdstat ∧ decode ⟨0x02, 0, 0⟩ ≠ .instr .rdstep := by
  decide

/-- Two blocks with the same parameters, one of them in the middle of a command. -/
theorem witness_ResetErasesThePast : rollingBlock.cfg = seededBlock.cfg ∧ rollingBlock ≠ seededBlock := by decide

end Sys2Proof.Tests
end

/-! O50: the state advance and the answers it gives read STATE, INC and SEEDED only. The induction over a list of actions is
made once, for any relation between the registers of two blocks that every command keeps. -/

namespace Sys2Proof.Machine

/-! ### Two runs of the same actions -/

section TwoRuns

variable {cfg : Config} {R : ArchRegs → ArchRegs → Prop} {Q : Command → Response → Response → Prop}

/-- A relation that holds of the reset registers and that every command keeps holds after every list of actions. -/
theorem regsAfter_related (hzero : R .zero .zero)
    (hregs : ∀ c a a', R a a' → R (commandEffect cfg a c).regs (commandEffect cfg a' c).regs)
    (hs : List HostAction) {a a' : ArchRegs} (h : R a a') : R (regsAfter cfg hs a) (regsAfter cfg hs a') := by
  induction hs generalizing a a' with
  | nil => exact h
  | cons act hs ih =>
    cases act with
    | command c => exact ih (hregs c a a' h)
    | reset => exact ih hzero

/-- If moreover related registers give responses related by `Q`, then the two responses to the `n`-th command are. -/
theorem responsesOf_related (hzero : R .zero .zero)
    (hregs : ∀ c a a', R a a' → R (commandEffect cfg a c).regs (commandEffect cfg a' c).regs)
    (hresp : ∀ c a a', R a a' → Q c (commandEffect cfg a c).response (commandEffect cfg a' c).response)
    (hs : List HostAction) {a a' : ArchRegs} (h : R a a') {n : Nat} {c : Command} (hc : (commandsOf hs)[n]? = some c) :
    ∃ r r', (responsesOf cfg hs a)[n]? = some r ∧ (responsesOf cfg hs a')[n]? = some r' ∧ Q c r r' := by
  induction hs generalizing a a' n with
  | nil => simp [commandsOf] at hc
  | cons act hs ih =>
    cases act with
    | reset => exact ih hzero hc
    | command d =>
      cases n with
      | zero =>
        obtain rfl : d = c := by simpa [commandsOf] using hc
        exact ⟨_, _, rfl, rfl, hresp d a a' h⟩
      | succ n => exact ih (hregs d a a' h) hc

end TwoRuns

/-- R87: one response to a command. -/
@[simp] theorem responsesOf_length (cfg : Config) (hs : List HostAction) (a : ArchRegs) :
    (responsesOf cfg hs a).length = (commandsOf hs).length := by
  induction hs generalizing a with
  | nil => rfl
  | cons act hs ih => cases act <;> simp [responsesOf, commandsOf, ih]

/-! ### Registers that agree for generation -/

/-- The registers agree in all that R48 lets generation depend on. -/
structure SameGenerator (a a' : ArchRegs) : Prop where
  state : a.state = a'.state
  inc : a.inc = a'.inc
  seeded : a.seeded = a'.seeded

/-- The instructions whose response shows TRC or STEP, which generation does not read (R190, R193, R194). -/
def ShowsTrcOrStep (i : Instr) : Prop := i = .trace ∨ i = .rdstat ∨ i = .rdstep

/-- The two answers to the command are the same one, unless they show TRC or STEP. -/
def SameAnswerUnlessShown (c : Command) (r r' : Response) : Prop :=
  (∀ i, decode c = .instr i → ¬ ShowsTrcOrStep i) → r = r'

/-- R48: an instruction's STATE, INC and SEEDED are a function of those before it. -/
theorem instrEffect_sameGenerator (cfg : Config) (i : Instr) {a a' : ArchRegs} (h : SameGenerator a a') :
    SameGenerator (instrEffect cfg a i).regs (instrEffect cfg a' i).regs := by
  obtain ⟨hstate, hinc, hseeded⟩ := h
  cases i with
  | seed x b => constructor <;> simp [instrEffect, hstate, hinc]
  | roll => cases hseed : a'.seeded <;> constructor <;> simp [instrEffect, hstate, hinc, hseeded, hseed]
  | jump d => cases hseed : a'.seeded <;> constructor <;> simp [instrEffect, hstate, hinc, hseeded, hseed]
  | trace | rdstate | rdinc | rdstep | rdstat => exact ⟨hstate, hinc, hseeded⟩

/-- R48: an instruction's response is a function of STATE, INC and SEEDED, unless it shows TRC or STEP. -/
theorem instrEffect_response_of_sameGenerator (cfg : Config) {i : Instr} (hi : ¬ ShowsTrcOrStep i) {a a' : ArchRegs}
    (h : SameGenerator a a') : (instrEffect cfg a i).response = (instrEffect cfg a' i).response := by
  obtain ⟨hstate, hinc, hseeded⟩ := h
  cases i with
  | seed x b => simp [instrEffect, hstate, hinc]
  | roll => cases hseed : a'.seeded <;> simp [instrEffect, hstate, hinc, hseeded, hseed]
  | jump d => cases hseed : a'.seeded <;> simp [instrEffect, hseeded, hseed]
  | rdstate => simp [instrEffect, hstate]
  | rdinc => simp [instrEffect, hinc]
  | trace | rdstep | rdstat => simp [ShowsTrcOrStep] at hi

/-- R48 for a command transfer: an illegal word changes no register. -/
theorem commandEffect_sameGenerator (cfg : Config) (c : Command) (a a' : ArchRegs) (h : SameGenerator a a') :
    SameGenerator (commandEffect cfg a c).regs (commandEffect cfg a' c).regs := by
  unfold commandEffect
  cases decode c with
  | instr i => exact instrEffect_sameGenerator cfg i h
  | illegal _ => exact h

/-- R48 for a command transfer: an illegal word has one answer. -/
theorem commandEffect_response_of_sameGenerator (cfg : Config) (c : Command) (a a' : ArchRegs) (h : SameGenerator a a') :
    SameAnswerUnlessShown c (commandEffect cfg a c).response (commandEffect cfg a' c).response := by
  intro hc
  unfold commandEffect
  cases hd : decode c with
  | instr i => exact instrEffect_response_of_sameGenerator cfg (hc i hd) h
  | illegal _ => rfl

/-- R48: STATE, INC and SEEDED after a list of actions are a function of those before it. -/
theorem regsAfter_sameGenerator (cfg : Config) (hs : List HostAction) {a a' : ArchRegs} (h : SameGenerator a a') :
    SameGenerator (regsAfter cfg hs a) (regsAfter cfg hs a') :=
  regsAfter_related ⟨rfl, rfl, rfl⟩ (commandEffect_sameGenerator cfg) hs h

/-- R48: the response to a command that shows neither TRC nor STEP is a function of the STATE, INC and SEEDED that the list of
actions began with. -/
theorem responsesOf_getElem?_of_sameGenerator (cfg : Config) (hs : List HostAction) {a a' : ArchRegs}
    (h : SameGenerator a a') {n : Nat} {c : Command} (hn : (commandsOf hs)[n]? = some c)
    (hc : ∀ i, decode c = .instr i → ¬ ShowsTrcOrStep i) :
    (responsesOf cfg hs a)[n]? = (responsesOf cfg hs a')[n]? := by
  obtain ⟨r, r', hr, hr', heq⟩ :=
    responsesOf_related ⟨rfl, rfl, rfl⟩ (commandEffect_sameGenerator cfg)
      (commandEffect_response_of_sameGenerator cfg) hs h hn
  rw [hr, hr', heq hc]

/-- Settles O50: both runs are `regsAfter` and `responsesOf` of registers that agree for generation. -/
theorem generationDependsOnStateAndIncAlone : Obligations.GenerationDependsOnStateAndIncAlone := by
  intro s s' hs hw hw' hstate hinc hseeded hcfg
  have h : SameGenerator (archOf s) (archOf s') := ⟨hstate, hinc, hseeded⟩
  obtain ⟨t, ht, -, hregs, htaken, -⟩ := runActions_result hs s hw
  obtain ⟨t', ht', -, hregs', htaken', -⟩ := runActions_result hs s' hw'
  rw [← hcfg] at hregs' htaken'
  have hend : SameGenerator (archOf t) (archOf t') := hregs ▸ hregs' ▸ regsAfter_sameGenerator s.cfg hs h
  refine ⟨t, t', _, _, ht, ht', hend.state, hend.inc, hend.seeded, htaken, htaken', by simp, ?_⟩
  intro n c hn htrace hrdstat hrdstep
  refine responsesOf_getElem?_of_sameGenerator s.cfg hs h hn fun i hi hshows => ?_
  rcases hshows with rfl | rfl | rfl
  · exact htrace hi
  · exact hrdstat hi
  · exact hrdstep hi

end Sys2Proof.Machine

/-! O1: the decoder's two tests, read as tests of the command word's number. -/

namespace Sys2Proof

/-! ### The two fields of a command word -/

/-- RSV is bits 7:4 (R81). -/
theorem rsvField_toNat (w : U8) : (rsvField w).toNat = w.toNat / 16 := by
  have hw := w.isLt
  simp only [rsvField, BitVec.extractLsb'_toNat, Nat.shiftRight_eq_div_pow]
  omega

/-- OPC is bits 3:0 (R81). -/
theorem opcField_toNat (w : U8) : (opcField w).toNat = w.toNat % 16 := by
  simp [opcField, BitVec.extractLsb'_toNat]

/-- RSV is clear exactly on the words 0 to 15. -/
theorem rsvField_eq_zero_iff (w : U8) : rsvField w = 0#4 ↔ w.toNat < 16 := by
  rw [← BitVec.toNat_inj, rsvField_toNat, BitVec.toNat_ofNat]
  omega

/-- Where RSV is clear, OPC is the whole word. -/
theorem opcField_eq_iff {w : U8} (hw : w.toNat < 16) (k : BitVec 4) : opcField w = k ↔ w.toNat = k.toNat := by
  rw [← BitVec.toNat_inj, opcField_toNat, Nat.mod_eq_of_lt hw]

/-! ### The decoder by the word's number -/

/-- R84's first test: from 16 up, the word is illegal whatever its OPC. -/
theorem decode_of_reservedBits {c : Command} (h : 16 ≤ c.word.toNat) : decode c = .illegal .reservedBits := by
  have hrsv : rsvField c.word ≠ 0#4 := by rw [ne_eq, rsvField_eq_zero_iff]; omega
  rw [decode, if_pos hrsv]

/-- Settles O1: RSV is clear exactly below 16, and there OPC is the whole word, so each arm of the decoder is one word. -/
theorem decodeIsTotalOnTheOpcodeMap : Obligations.DecodeIsTotalOnTheOpcodeMap := by
  intro c
  by_cases h : c.word.toNat < 16
  · have hrsv : ¬ rsvField c.word ≠ 0#4 := not_not.mpr ((rsvField_eq_zero_iff c.word).mpr h)
    rw [decode, if_neg hrsv, if_neg (Nat.not_le.mpr h)]
    split
    -- The last arm is the opcodes that R83 leaves unassigned; each of the others fixes the word.
    case h_9 => simp_all [opcField_eq_iff h]
    all_goals next hopc => simp [(opcField_eq_iff h _).mp hopc]
  · have h16 : 16 ≤ c.word.toNat := Nat.not_lt.mp h
    have hne : ∀ k < 16, c.word.toNat ≠ k := fun k hk => (hk.trans_le h16).ne'
    simp [decode_of_reservedBits h16, h16, hne]

end Sys2Proof

/-! O7: the primitives as arithmetic on the operands' unsigned values. -/

namespace Sys2Proof.Machine

/-- R110: addition mod 2^128. -/
theorem add128_toNat (a b : U128) : (add128 a b).toNat = (a.toNat + b.toNat) % 2 ^ 128 := BitVec.toNat_add a b

/-- R111: multiplication mod 2^128. -/
theorem mul128_toNat (a b : U128) : (mul128 a b).toNat = a.toNat * b.toNat % 2 ^ 128 := BitVec.toNat_mul a b

/-- R112: the high half is the quotient by 2^64, which already fits 64 bits. -/
theorem hi64_toNat (a : U128) : (hi64 a).toNat = a.toNat / 2 ^ 64 := by
  have hlt : a.toNat / 2 ^ 64 < 2 ^ 64 := Nat.div_lt_of_lt_mul a.isLt
  rw [hi64, BitVec.extractLsb'_toNat, Nat.shiftRight_eq_div_pow, Nat.mod_eq_of_lt hlt]

/-- R112: the low half is the remainder by 2^64. -/
theorem lo64_toNat (a : U128) : (lo64 a).toNat = a.toNat % 2 ^ 64 := by
  rw [lo64, BitVec.extractLsb'_toNat, Nat.shiftRight_zero]

/-- R113: the top six bits are the quotient by 2^122, which already fits 6 bits. -/
theorem top6_toNat (a : U128) : (top6 a).toNat = a.toNat / 2 ^ 122 := by
  have hlt : a.toNat / 2 ^ 122 < 2 ^ 6 := Nat.div_lt_of_lt_mul a.isLt
  rw [top6, BitVec.extractLsb'_toNat, Nat.shiftRight_eq_div_pow, Nat.mod_eq_of_lt hlt]

/-- R114: the shifted operand is even, so OR with 1 adds 1. -/
theorem incval_toNat (q : U128) : (incval q).toNat = 2 * q.toNat % 2 ^ 128 + 1 := by
  have heven : 2 * q.toNat % 2 ^ 128 = 2 ^ 1 * (q.toNat % 2 ^ 127) := Nat.mul_mod_mul_left 2 q.toNat (2 ^ 127)
  calc (incval q).toNat
    _ = 2 * q.toNat % 2 ^ 128 ||| 1 := by simp [incval, Nat.shiftLeft_eq, Nat.mul_comm]
    _ = 2 ^ 1 * (q.toNat % 2 ^ 127) ||| 1 := by rw [heven]
    _ = 2 ^ 1 * (q.toNat % 2 ^ 127) + 1 := (Nat.two_pow_add_eq_or_of_lt (by decide) _).symm
    _ = 2 * q.toNat % 2 ^ 128 + 1 := by rw [heven]

/-- Settles O7: each clause is the unsigned value of one primitive. -/
theorem primitivesAreModularArithmetic : Obligations.PrimitivesAreModularArithmetic :=
  ⟨wrapStep_toNat, fun a b =>
    ⟨add128_toNat a b, mul128_toNat a b, hi64_toNat a, lo64_toNat a, rfl, top6_toNat a, incval_toNat a⟩⟩

end Sys2Proof.Machine

/-! O8: ADVANCE and SEED as whole next states. -/

namespace Sys2Proof.Machine

/-- R130: ADVANCE takes one LCG step, counts it, and lets out one event when TRC = 1. -/
theorem advance_eq (s : State) : advance s =
    { s with
      state := lcg s.inc s.state
      stepCount := wrapStep s.cfg.wStep (s.stepCount + 1)
      events := s.events ++ if s.trc then [⟨.adv, lcg s.inc s.state⟩] else [] } := by
  have hstep : add128 (mul128 Config.MUL s.state) s.inc = lcg s.inc s.state := by simp [← advance_state]
  unfold advance emitTrace
  cases htrc : s.trc <;> simp [hstep]

/-- R132: SEED takes two LCG steps with the new increment, the seed added between them. -/
theorem execSeed_eq (a b : U128) (s : State) :
    let inc := seedInc s.cfg.seedIncMode s.inc b
    let x1 := lcg inc (seedStart s.cfg.seedClearState s.state)
    let x2 := lcg inc (x1 + a)
    execSeed a b s = .next
      { s with
        inc := inc
        state := x2
        stepCount := wrapStep s.cfg.wStep (s.stepCount + 2)
        seeded := true
        events := s.events ++ if s.trc then [⟨.adv, x1⟩, ⟨.adv, x2⟩] else []
        answer := some ⟨0, x2⟩
        wait := s.cfg.latSeed } := by
  have hcount : wrapStep s.cfg.wStep (wrapStep s.cfg.wStep (s.stepCount + 1) + 1) =
      wrapStep s.cfg.wStep (s.stepCount + 2) := by rw [wrapStep_add, BitVec.add_assoc]; rfl
  simp only [execSeed, advance_eq, seedAdd, seedPrepare, respond, hcount]
  cases htrc : s.trc <;> simp [add128, statusOk]

/-- Settles O8: the decoder's arm for word 1, and SEED's next state with the update of INC written out. -/
theorem seedConfiguresIncrementAndMixesSeed : Obligations.SeedConfiguresIncrementAndMixesSeed := by
  intro a b s
  have hdecode : decode ⟨0x01#8, a, b⟩ = .instr (.seed a b) := decodeIsTotalOnTheOpcodeMap ⟨0x01#8, a, b⟩
  refine ⟨hdecode, (execSeed_eq a b s).trans ?_⟩
  cases hmode : s.cfg.seedIncMode <;> rfl

end Sys2Proof.Machine

/-! O11: ROLL as a whole next state, on either side of the SEEDED gate. -/

namespace Sys2Proof.Machine

/-- R152: ROLL of a seeded block is one ADVANCE, answered with the permutation of the state after it. -/
theorem execRoll_of_seeded {s : State} (h : s.seeded = true) :
    execRoll s = .next (respond s.cfg.latRoll statusOk (zext128 (xslrr (lcg s.inc s.state))) (advance s)) := by
  rw [← advance_state s]
  simp [execRoll, h]

/-- R152, R222: ROLL of an unseeded block is the error NOT_SEEDED. -/
theorem execRoll_of_unseeded {s : State} (h : s.seeded = false) : execRoll s = .next (raiseError .notSeeded s) := by
  simp [execRoll, h]

/-- Settles O11: the decoder's arm for word 2, and ROLL on either side of its gate, with the ADVANCE written out. -/
theorem rollAdvancesAndPermutes : Obligations.RollAdvancesAndPermutes := by
  refine ⟨fun a b => ?decode, fun s h => ?seeded, fun s h => ?unseeded⟩
  case decode => exact decodeIsTotalOnTheOpcodeMap ⟨0x02#8, a, b⟩
  case seeded => exact (execRoll_of_seeded h).trans (by rw [advance_eq]; rfl)
  case unseeded => exact execRoll_of_unseeded h

end Sys2Proof.Machine

/-! O14: JUMP as a whole next state, on either side of the SEEDED gate. -/

namespace Sys2Proof.Machine

/-- R88: emitting lets out one event when TRC = 1, and none otherwise. -/
theorem emitTrace_eq (g : TraceTag) (v : U128) (s : State) :
    emitTrace g v s = { s with events := s.events ++ if s.trc then [⟨g, v⟩] else [] } := by
  by_cases htrc : s.trc = true
  · rw [emitTrace, if_pos htrc, if_pos htrc]
  · rw [emitTrace, if_neg htrc, if_neg htrc, List.append_nil]

/-- R172, R173: JUMP of a seeded block applies the circuit's coefficients once, counts the distance, and lets out one event
when TRC = 1; the working registers end with the free values of `openJumpRegs`. -/
theorem execJump_of_seeded (d : U128) {s : State} (h : s.seeded = true) :
    let x := (jumpCoef s.inc d).accM * s.state + (jumpCoef s.inc d).accP
    execJump d s = .next
      { s with
        state := x
        stepCount := wrapStep s.cfg.wStep (s.stepCount + d)
        events := s.events ++ if s.trc then [⟨.jmp, x⟩] else []
        answer := some ⟨statusOk, 0⟩
        wait := s.cfg.latJump
        jump := (openJumpRegs s).jump
        drawn := s.drawn + 1 } := by
  rw [execJump, if_pos h]
  simp only [emitTrace_eq, countJump, applyJump, runJumpCircuit, openJumpRegs, respond, add128, mul128]

/-- R173, R222: JUMP of an unseeded block is the error NOT_SEEDED. -/
theorem execJump_of_unseeded (d : U128) {s : State} (h : s.seeded = false) :
    execJump d s = .next (raiseError .notSeeded s) := by
  simp [execJump, h]

/-- Settles O14: the decoder's arm for word 3, and JUMP on either side of its gate. -/
theorem jumpAppliesTheCoefficients : Obligations.JumpAppliesTheCoefficients := by
  refine ⟨fun d b => ?decode, fun d s h => ?seeded, fun d s h => ?unseeded⟩
  case decode => exact decodeIsTotalOnTheOpcodeMap ⟨0x03#8, d, b⟩
  case seeded => exact ⟨_, _, execJump_of_seeded d h⟩
  case unseeded => exact execJump_of_unseeded d h

end Sys2Proof.Machine

/-! O21 and O22: TRACE and the reads as whole next states, with the two views they answer as numbers. -/

namespace Sys2Proof.Machine

/-! ### The answered views as numbers -/

/-- R190: `{old, ~old}` has exactly one of its two bits set. -/
theorem traceData_eq (old : Bool) : traceData old = if old then 2 else 1 := by
  cases old <;> decide

/-- R40: TRC has weight 2 and SEEDED weight 1. -/
theorem statusView_eq (seeded trc : Bool) :
    statusView seeded trc = BitVec.ofNat 128 ((if trc then 2 else 0) + (if seeded then 1 else 0)) := by
  cases seeded <;> cases trc <;> decide

/-! ### INC around the first SEED -/

/-- R30, R41: nothing but SEED writes INC, so it is 0 until then. -/
theorem SeedingInv.inc_eq_zero {s : State} (h : SeedingInv s) (hs : s.seeded = false) : s.inc = 0 := by
  obtain ⟨-, hzero, -⟩ := h
  obtain ⟨-, hinc, -⟩ := hzero hs
  exact hinc

/-- R33, R192: INC is even only before the first SEED. -/
theorem SeedingInv.inc_even_iff {s : State} (h : SeedingInv s) : s.inc.getLsbD 0 = false ↔ s.seeded = false := by
  constructor
  · intro heven
    obtain ⟨hodd, -, -⟩ := h
    exact Bool.eq_false_iff.mpr fun hs => Bool.eq_false_iff.mp heven (hodd hs)
  · intro hs
    rw [h.inc_eq_zero hs]
    exact BitVec.getLsbD_zero

/-! ### TRACE and the reads -/

/-- Settles O21: the decoder's arm for word 4, and TRACE's data as a number. -/
theorem traceTogglesAndAnswersBoth : Obligations.TraceTogglesAndAnswersBoth := by
  refine ⟨fun a b => ?decode, fun s => ?exec⟩
  case decode => exact decodeIsTotalOnTheOpcodeMap ⟨0x04#8, a, b⟩
  case exec => rw [← traceData_eq]; rfl

/-- Settles O22: the decoder's arms for words 5, 6 and 8, the reads' next states with the STATUS view as a number, and INC by
the invariant on seeding. -/
theorem readsAnswerAndChangeNothing : Obligations.ReadsAnswerAndChangeNothing := by
  refine ⟨fun a b => ⟨?word5, ?word6, ?word8⟩, fun s => ⟨rfl, rfl, ?rdstat⟩, fun s hI hw => ?inc⟩
  case word5 => exact decodeIsTotalOnTheOpcodeMap ⟨0x05#8, a, b⟩
  case word6 => exact decodeIsTotalOnTheOpcodeMap ⟨0x06#8, a, b⟩
  case word8 => exact decodeIsTotalOnTheOpcodeMap ⟨0x08#8, a, b⟩
  case rdstat => rw [← statusView_eq]; rfl
  case inc =>
    obtain ⟨-, hinv⟩ := hI
    obtain ⟨hseeding, -⟩ := hinv hw
    exact ⟨hseeding.inc_eq_zero, hseeding.inc_even_iff⟩

end Sys2Proof.Machine

/-! O23, O24 and O25: a command either raises one of the two errors, whose whole effect is `raiseError`, or completes with
status 0. -/

namespace Sys2Proof.Machine

/-! ### The causes of the two errors -/

/-- The command raises the error: a word that the decoder rejects (R221), or ROLL or JUMP of an unseeded block (R222). -/
def Raises (c : Command) (s : State) : ErrorCause → Prop
  | .illegalCommand => ∃ why, decode c = .illegal why
  | .notSeeded => (decode c = .instr .roll ∨ ∃ d, decode c = .instr (.jump d)) ∧ s.seeded = false

/-- R221: the words outside the opcode map are 0 and those from 9 up. -/
theorem raises_illegalCommand_iff (c : Command) (s : State) :
    Raises c s .illegalCommand ↔ c.word.toNat = 0 ∨ 9 ≤ c.word.toNat := by
  rw [Raises, decodeIsTotalOnTheOpcodeMap c]
  split_ifs <;> simp <;> omega

/-- R222: the two gated commands are words 2 and 3. -/
theorem raises_notSeeded_iff (c : Command) (s : State) :
    Raises c s .notSeeded ↔ (c.word.toNat = 2 ∨ c.word.toNat = 3) ∧ s.seeded = false := by
  rw [Raises, decodeIsTotalOnTheOpcodeMap c]
  refine and_congr_left' ?_
  split_ifs <;> simp <;> omega

/-- R226: a word that the decoder rejects names no command that SEEDED gates. -/
theorem Raises.not_notSeeded {c : Command} {s : State} (h : Raises c s .illegalCommand) : ¬ Raises c s .notSeeded := by
  obtain ⟨why, hd⟩ := h
  simp [Raises, hd]

/-- A command has at most one error. -/
theorem Raises.unique {c : Command} {s : State} {e e' : ErrorCause} (h : Raises c s e) (h' : Raises c s e') : e = e' := by
  cases e with
  | illegalCommand =>
    cases e' with
    | illegalCommand => rfl
    | notSeeded => exact absurd h' h.not_notSeeded
  | notSeeded =>
    cases e' with
    | illegalCommand => exact absurd h h'.not_notSeeded
    | notSeeded => rfl

/-- R220: the two errors have different codes. -/
theorem errorCode_injective : Function.Injective errorCode := by
  intro e e' h
  cases e <;> cases e' <;> simp_all [errorCode]

/-- R87: no error has the code of a completed command. -/
theorem statusOk_ne_errorCode (e : ErrorCause) : statusOk ≠ errorCode e := by
  cases e <;> decide

/-- R87: no error has the reserved code. -/
theorem errorCode_ne_statusReserved (e : ErrorCause) : errorCode e ≠ statusReserved := by
  cases e <;> decide

/-- The code of the error that a command raises tells which error it is. -/
theorem Raises.errorCode_eq_iff {c : Command} {s : State} {e : ErrorCause} (h : Raises c s e) (e' : ErrorCause) :
    errorCode e = errorCode e' ↔ Raises c s e' :=
  ⟨fun heq => errorCode_injective heq ▸ h, fun h' => congrArg errorCode (h.unique h')⟩

/-! ### What a command does with and without an error -/

/-- R223: all that a command with an error does is to raise it. -/
theorem runCommand_of_raises {c : Command} {s : State} {e : ErrorCause} (h : Raises c s e) :
    runCommand c s = .next (raiseError e s) := by
  cases e with
  | illegalCommand =>
    obtain ⟨why, hd⟩ := h
    rw [runCommand, hd]
  | notSeeded =>
    obtain ⟨hd | ⟨d, hd⟩, hs⟩ := h
    · rw [runCommand, hd]
      exact execRoll_of_unseeded hs
    · rw [runCommand, hd]
      exact execJump_of_unseeded d hs

/-- R87: a command without an error answers with status 0. -/
theorem runCommand_of_not_raises {c : Command} {s : State} (h : ∀ e, ¬ Raises c s e) :
    ∃ t d, runCommand c s = .next t ∧ t.answer = some ⟨statusOk, d⟩ := by
  rw [runCommand]
  cases hd : decode c with
  | illegal why => exact absurd ⟨why, hd⟩ (h .illegalCommand)
  | instr i =>
    have hgate : (i = .roll ∨ ∃ d, i = .jump d) → s.seeded = true := by
      intro hi
      by_contra hs
      exact h .notSeeded ⟨by simpa [hd] using hi, by simpa using hs⟩
    cases i with
    | roll => exact ⟨_, _, execRoll_of_seeded (hgate (.inl rfl)), rfl⟩
    | jump d => exact ⟨_, _, execJump_of_seeded d (hgate (.inr ⟨d, rfl⟩)), rfl⟩
    | seed a b => exact ⟨_, _, rfl, rfl⟩
    | trace | rdstate | rdinc | rdstep | rdstat => exact ⟨_, _, rfl, rfl⟩

/-- A command raises an error and does nothing else, or it raises none and answers with status 0. -/
theorem runCommand_cases (c : Command) (s : State) :
    (∃ e, Raises c s e ∧ runCommand c s = .next (raiseError e s)) ∨
    ((∀ e, ¬ Raises c s e) ∧ ∃ t d, runCommand c s = .next t ∧ t.answer = some ⟨statusOk, d⟩) := by
  by_cases h : ∃ e, Raises c s e
  · obtain ⟨e, he⟩ := h
    exact .inl ⟨e, he, runCommand_of_raises he⟩
  · have hno : ∀ e, ¬ Raises c s e := not_exists.mp h
    exact .inr ⟨hno, runCommand_of_not_raises hno⟩

/-! ### An error as a transaction -/

/-- R223: an error keeps the registers of R30 and has no event. -/
theorem Raises.commandEffect_eq {c : Command} {s : State} {e : ErrorCause} (h : Raises c s e) :
    commandEffect s.cfg (archOf s) c = ⟨archOf s, ⟨errorCode e, 0⟩, []⟩ := by
  cases e with
  | illegalCommand =>
    obtain ⟨why, hd⟩ := h
    simp [commandEffect, hd, errorCode]
  | notSeeded =>
    obtain ⟨hd | ⟨d, hd⟩, hs⟩ := h <;> simp [commandEffect, hd, instrEffect, archOf, hs, errorCode]

/-- R223, R228: the transaction of a command with an error records its response, keeps the registers of R30 and leaves the
block ready. -/
theorem Raises.transact_result {c : Command} {s : State} {e : ErrorCause} (h : Raises c s e) (hw : s.wasReset = true) :
    ∃ u, transact c s = .next u ∧ u.busy = false ∧ u.taken = s.taken ++ [⟨errorCode e, 0⟩] ∧
      u.traceLog = s.traceLog ++ s.events ∧ archOf u = archOf s := by
  obtain ⟨u, hu, hres⟩ := Machine.transact_result c hw
  have hregs := hres.regs
  have htaken := hres.taken
  have hlog := hres.traceLog
  rw [h.commandEffect_eq] at hregs htaken hlog
  exact ⟨u, hu, hres.busy, htaken, by simpa using hlog, hregs⟩

/-! ### The obligations -/

/-- Settles O23: a status other than 0 means that the command raised an error, so its next state is `raiseError` and its
transaction keeps the registers. -/
theorem errorsHaveNoEffect : Obligations.ErrorsHaveNoEffect := by
  intro c s t r hrun hanswer hstatus
  obtain ⟨e, he, herr⟩ | ⟨-, t', d, hok, hanswer'⟩ := runCommand_cases c s
  · obtain rfl : raiseError e s = t := Host.Outcome.next.inj (herr.symm.trans hrun)
    obtain rfl : ⟨errorCode e, 0⟩ = r := Option.some.inj hanswer
    refine ⟨rfl, fun hw => ?_⟩
    obtain ⟨u, hu, hbusy, htaken, hlog, hregs⟩ := he.transact_result hw
    obtain ⟨hstate, hinc, hstep, htrc, hseeded⟩ := ArchRegs.mk.inj hregs
    exact ⟨u, hu, by simp [portOut, cmdReady, hbusy], htaken, hlog, hstate, hinc, hstep, htrc, hseeded⟩
  · obtain rfl : t' = t := Host.Outcome.next.inj (hok.symm.trans hrun)
    obtain rfl : ⟨statusOk, d⟩ = r := Option.some.inj (hanswer'.symm.trans hanswer)
    exact absurd rfl hstatus

/-- Settles O24: RSV or OPC out of range puts the word's number at 0 or from 9 up. -/
theorem illegalWordsAnswerIllegalCommand : Obligations.IllegalWordsAnswerIllegalCommand := by
  intro c s hfields
  have hword : c.word.toNat = 0 ∨ 9 ≤ c.word.toNat := by omega
  exact runCommand_of_raises ((raises_illegalCommand_iff c s).mpr hword)

/-- Settles O25: the code of a raised error is that of its one cause, and without an error the status is 0. -/
theorem eachStatusHasItsOneCause : Obligations.EachStatusHasItsOneCause := by
  intro c s
  simp only [← raises_illegalCommand_iff c s, ← raises_notSeeded_iff c s]
  obtain ⟨e, he, hrun⟩ | ⟨hno, t, d, hrun, hanswer⟩ := runCommand_cases c s
  · exact ⟨_, ⟨errorCode e, 0⟩, hrun, rfl, errorCode_ne_statusReserved e, he.errorCode_eq_iff .illegalCommand,
      he.errorCode_eq_iff .notSeeded, fun _ => rfl⟩
  · have hne : statusOk ≠ statusReserved := by decide
    exact ⟨t, ⟨statusOk, d⟩, hrun, hanswer, hne,
      iff_of_false (statusOk_ne_errorCode .illegalCommand) (hno .illegalCommand),
      iff_of_false (statusOk_ne_errorCode .notSeeded) (hno .notSeeded), fun h => absurd rfl h⟩

end Sys2Proof.Machine

/-! O2, O3: decoder and encoder, by the number of a transfer's word and by the number of the whole transfer. -/

namespace Sys2Proof

/-- Every instruction is decoded from its own transfer (R84). -/
theorem decode_encode (i : Instr) : decode (encode i) = .instr i := by
  cases i <;> exact decodeIsTotalOnTheOpcodeMap _

/-- Each command has one word (R83). -/
theorem word_of_decode {c : Command} {i : Instr} (h : decode c = .instr i) : c.word = (encode i).word := by
  apply BitVec.eq_of_toNat_eq
  rw [decodeIsTotalOnTheOpcodeMap c] at h
  split_ifs at h <;> cases h <;> assumption

/-- Log 11: the number of a transfer reads back as the transfer. -/
theorem commandOfBits_number (c : Command) :
    commandOfBits 264 (c.word.toNat + 2 ^ 8 * c.a.toNat + 2 ^ 136 * c.b.toNat) = c := by
  obtain ⟨w, a, b⟩ := c
  have hw := w.isLt
  have ha := a.isLt
  have hb := b.isLt
  simp only [commandOfBits, Command.mk.injEq]
  refine ⟨?word, ?a, ?b⟩
  all_goals apply BitVec.eq_of_toNat_eq; rw [BitVec.toNat_ofNat]; omega

/-- Settles O2: the decoder undoes the encoder, the numbering loses nothing, and a word names its command. -/
theorem decodeAndEncodeAgree : Obligations.DecodeAndEncodeAgree := by
  intro i
  refine ⟨decode_encode i, ?number, fun c h => ⟨word_of_decode h, h.trans (decode_encode i).symm⟩⟩
  rw [decodeTableWord, commandOfBits_number, decode_encode]

/-- Settles O3: each written word is one of the decoder's arms. -/
theorem writtenWordsDecode : Obligations.WrittenWordsDecode :=
  ⟨decode_encode (.seed 42 54), decodeIsTotalOnTheOpcodeMap _, decodeIsTotalOnTheOpcodeMap _, decode_encode .trace,
    decode_encode .rdstat, decodeIsTotalOnTheOpcodeMap _, decodeIsTotalOnTheOpcodeMap _⟩

end Sys2Proof

/-! O4, O5, O6: the assembler's integers, pseudo-instructions and mnemonics. -/

namespace Sys2Proof.Machine

/-- R14: the bus carries the residue mod 2^128. -/
theorem trunc128_toNat (k : Int) : ((trunc128 k).toNat : Int) = k % 2 ^ 128 := by
  rw [trunc128, BitVec.toNat_ofInt]
  exact Int.toNat_of_nonneg (Int.emod_nonneg k (by decide))

/-- Settles O4: the residue of a negative integer counts down from 2^128. -/
theorem integersReachTheBusAsResidues : Obligations.IntegersReachTheBusAsResidues := by
  intro k
  have hres := trunc128_toNat k
  refine ⟨hres, fun hneg => ?_⟩
  split <;> omega

/-- Settles O5: each pseudo-instruction is assembled as the command it stands for. -/
theorem pseudoInstructionsExpand : Obligations.PseudoInstructionsExpand :=
  ⟨fun _ => rfl, rfl, rfl⟩

/-! ### Case of a mnemonic -/

/-- Lowering moves an upper-case letter by 32. -/
theorem lowerChar_toNat (c : Char) :
    (lowerChar c).toNat = if 65 ≤ c.toNat ∧ c.toNat ≤ 90 then c.toNat + 32 else c.toNat := by
  unfold lowerChar
  split
  · next h => rw [Char.toNat_ofNat, if_pos (Or.inl (by omega))]
  · rfl

/-- Lowering reaches no upper-case letter. -/
theorem lowerChar_lowerChar (c : Char) : lowerChar (lowerChar c) = lowerChar c := by
  have h : ¬ (65 ≤ (lowerChar c).toNat ∧ (lowerChar c).toNat ≤ 90) := by
    rw [lowerChar_toNat]
    split <;> omega
  rw [lowerChar, if_neg h]

/-- Lowering makes no full stop, so it makes no directive of a mnemonic. -/
theorem lowerChar_eq_dot {c : Char} (h : lowerChar c = '.') : c = '.' := by
  have hn := lowerChar_toNat c
  rw [h] at hn
  apply Char.toNat_inj.mp
  split at hn
  · next hupper =>
    have hdot : '.'.toNat = 46 := rfl
    omega
  · exact hn.symm

/-- A word that starts with no full stop is lowered to one that starts with none. -/
theorem head?_map_lowerChar_ne_dot {word : List Char} (h : word.head? ≠ some '.') :
    (word.map lowerChar).head? ≠ some '.' := by
  cases word with
  | nil => exact h
  | cons c cs => simpa using fun hc => h (by simp [lowerChar_eq_dot hc])

/-- R89: a word that is no directive is read by its lower-case letters alone. -/
theorem lineOf_congr {word word' : List Char} (h : word.head? ≠ some '.') (h' : word'.head? ≠ some '.')
    (hlower : word.map lowerChar = word'.map lowerChar) (ops : List Int) : lineOf word ops = lineOf word' ops := by
  have hne : ∀ {w : List Char}, w.head? ≠ some '.' → ∀ l, w ≠ '.' :: l := by
    rintro w hw l rfl
    exact hw rfl
  simp only [lineOf, hne h, hne h', hlower, if_false]

/-- Settles O6: lowering a word twice is lowering it once. -/
theorem mnemonicsIgnoreCase : Obligations.MnemonicsIgnoreCase := by
  intro word ops h
  have hlower : word.map lowerChar = (word.map lowerChar).map lowerChar := by
    simp [Function.comp_def, lowerChar_lowerChar]
  exact lineOf_congr h (head?_map_lowerChar_ne_dot h) hlower ops

end Sys2Proof.Machine

/-! O54: bit `i` of a value stands at place `i` of the map, and reading the places gives the value back. -/

namespace Sys2Proof.Machine

section BusMaps

variable {m : BusMap} (hm : m.wellFormed = true)
include hm

/-- R61: a legal map places the 128 bits in different places of its words. -/
theorem BusMap.wellFormed_facts :
    0 < m.width ∧ m.place.length = 128 ∧ m.place.Nodup ∧ ∀ j ∈ m.place, j < m.beats * m.width := by
  simp only [BusMap.wellFormed, Bool.and_eq_true, decide_eq_true_eq, List.all_eq_true] at hm
  obtain ⟨⟨⟨⟨hwidth, -⟩, hlength⟩, hnodup⟩, hplace⟩ := hm
  exact ⟨hwidth, hlength, hnodup, hplace⟩

/-- Every bit of the words is what the map places there. -/
theorem wordBit_busWords (d : Nat) (v : U128) {j : Nat} (hj : j < m.beats * m.width) :
    wordBit m (busWords m d v) j = placedBit m d v j := by
  obtain ⟨hwidth, -⟩ := BusMap.wellFormed_facts hm
  have hword : j / m.width < m.beats := Nat.div_lt_of_lt_mul (by rwa [Nat.mul_comm])
  have hbit : j % m.width < m.width := Nat.mod_lt j hwidth
  have hplace : j / m.width * m.width + j % m.width = j := Nat.div_add_mod' j m.width
  simp [wordBit, busWords, busWord, bitsValue_testBit, hword, hbit, hplace]

/-- The place of bit `i` carries bit `i`. -/
theorem placedBit_place (d : Nat) (v : U128) {i p : Nat} (hp : m.place[i]? = some p) :
    placedBit m d v p = v.getLsbD i := by
  obtain ⟨-, -, hnodup, -⟩ := BusMap.wellFormed_facts hm
  obtain ⟨hi, rfl⟩ := List.getElem?_eq_some_iff.mp hp
  rw [placedBit, if_pos (List.getElem_mem hi), hnodup.idxOf_getElem]

/-- R61: bit `i` of a value stands at its place of the bus words. -/
theorem wordBit_place (d : Nat) (v : U128) {i p : Nat} (hp : m.place[i]? = some p) :
    wordBit m (busWords m d v) p = v.getLsbD i := by
  obtain ⟨-, -, -, hplace⟩ := BusMap.wellFormed_facts hm
  rw [wordBit_busWords hm d v (hplace p (List.mem_of_getElem? hp)), placedBit_place hm d v hp]

/-- R61: the words of a value carry it back, whatever the padding is. -/
theorem portValue_busWords (d : Nat) (v : U128) : portValue m (busWords m d v) = v := by
  obtain ⟨-, hlength, -, -⟩ := BusMap.wellFormed_facts hm
  apply BitVec.eq_of_getLsbD_eq
  intro i hi
  have hp : m.place[i]? = some m.place[i] := List.getElem?_eq_getElem (hlength ▸ hi)
  rw [portValue, BitVec.getLsbD_ofNat, bitsValue_testBit, List.getElem?_map, hp]
  simp [hi, wordBit_place hm d v hp]

end BusMaps

/-- R61: a legal host bus carries every value, whole or through its map. -/
theorem fromBus_toBus {map : Option BusMap} (h : map.all BusMap.wellFormed = true) (d : Nat) (v : U128) :
    fromBus map (toBus map d v) = v := by
  cases map with
  | none => exact BitVec.ofNat_toNat 128 v
  | some m => exact portValue_busWords h d v

/-- Settles O54: the bits by the map's places, and both operands by reading the places back. -/
theorem busMapCarriesEveryValue : Obligations.BusMapCarriesEveryValue := by
  refine ⟨fun m d v i p hm hp => wordBit_place hm d v hp, fun cfg word d d' a b hcfg => ?_⟩
  have hmap : cfg.hostBusMap.all BusMap.wellFormed = true := by
    simp only [Config.wellFormed, Bool.and_eq_true] at hcfg
    obtain ⟨-, hmap⟩ := hcfg
    exact hmap
  rw [commandFromBus, fromBus_toBus hmap, fromBus_toBus hmap]

end Sys2Proof.Machine

/-! O26 to O34, O39, O53: one rising edge, by what it finds at the ports. -/

namespace Sys2Proof.Machine

/-! ### The step by the kind of its edge -/

/-- A presented command is the offer of its edge. -/
theorem PortIn.offer_of_cmdValid {p : PortIn} (h : p.cmdValid = true) : p.offer = some p.command := if_pos h

/-- An edge that presents no command offers none. -/
theorem PortIn.offer_of_not_cmdValid {p : PortIn} (h : p.cmdValid = false) : p.offer = none := by simp [PortIn.offer, h]

/-- R255: a command on offer that the edge presents is kept. -/
theorem PortIn.offer_kept {p : PortIn} {s : State} (hv : p.cmdValid = true)
    (ho : s.offered = none ∨ s.offered = some p.command) : s.offered = none ∨ p.offer = s.offered :=
  ho.imp_right fun h => (PortIn.offer_of_cmdValid hv).trans h.symm

section KeptOffer

variable {s : State} {p : PortIn} {rest : List HostEvent} (hin : s.inputs = .edge p :: rest) (ha : p.agents ≤ 1)
  (ho : s.offered = none ∨ p.offer = s.offered)
include hin ha ho

/-- R250: a reset edge of one host that keeps its offer resets. -/
theorem step_of_rst (hr : p.rst = true) : step s = .next (resetEdge p (withInputs rest s)) := by
  have hnone : edgeRefusal p (withInputs rest s) = none := edgeRefusal_none_of_rst hr ha ho
  simp [step_of_edge hin, clockEdge, hnone, hr]

variable (hr : p.rst = false) (hw : s.wasReset = true)
include hr hw

/-- R254: an edge that presents a command to a block that is not busy runs it. -/
theorem step_of_accept (hv : p.cmdValid = true) (hc : p.commandChanging = false) (hb : s.busy = false)
    (hrsp : s.rspValid = false) :
    step s = afterNext presentTrace (runCommand p.command (acceptCommand (sampleTrace p (withInputs rest s)))) := by
  have hnone : edgeRefusal p (withInputs rest s) = none := edgeRefusal_none ha ho hw (.inr (.inr hc))
  simp [step_of_edge hin, clockEdge, hnone, hr, hw, hv, hb, hrsp, cmdReady]

/-- R234, R254: an edge that accepts nothing goes on. -/
theorem step_of_runOn (hn : p.cmdValid = false ∨ s.busy = true) (hst : s.rspValid = true → s.rspStatus ≠ 3#2) :
    step s = .next (runOn p (withInputs rest s)) := by
  have hnone : edgeRefusal p (withInputs rest s) = none := edgeRefusal_none ha ho hw (hn.imp_right .inl)
  have hstatus : (s.rspValid && s.rspStatus == statusReserved) = false := by simpa [statusReserved] using hst
  have haccept : (p.cmdValid && cmdReady false (withInputs rest s)) = false := by
    rcases hn with h | h <;> simp [cmdReady, h]
  simp only [step_of_edge hin, clockEdge, hnone, hr, withInputs_fields, hw, hstatus, haccept]
  rfl

/-- U10: an edge that finds the reserved status on the port faults. -/
theorem step_of_statusReserved (hb : s.busy = true) (hv : s.rspValid = true) (hst : s.rspStatus = 3#2) :
    step s = .fault .reservedStatus := by
  have hnone : edgeRefusal p (withInputs rest s) = none := edgeRefusal_none ha ho hw (.inr (.inl hb))
  simp [step_of_edge hin, clockEdge, hnone, hr, hw, hv, hst, statusReserved]

end KeptOffer

/-- U10: nothing else faults, and no command does. -/
theorem reservedStatus_of_clockEdge_fault {p : PortIn} {s : State} {f : Fault} (h : clockEdge p s = .fault f) :
    s.wasReset = true ∧ s.rspValid = true ∧ s.rspStatus = 3#2 := by
  unfold clockEdge at h
  split at h
  · cases h
  · split at h
    · cases h
    · split at h
      · cases h
      · next hw =>
        split at h
        · next hst => simpa [statusReserved] using And.intro hw hst
        · split at h
          · obtain ⟨u, hu, -⟩ := runCommand_result p.command (acceptCommand (sampleTrace p s))
            rw [hu] at h
            cases h
          · cases h

/-- R255: an edge of one host that does not present what is on offer is refused. -/
theorem clockEdge_of_withdrawn {p : PortIn} {s : State} {c : Command} (ha : p.agents ≤ 1) (ho : s.offered = some c)
    (hp : p.offer ≠ some c) : clockEdge p s = .refused .commandWithdrawn := by
  have hone : ¬ 2 ≤ p.agents := by omega
  simp [clockEdge, edgeRefusal, breaksOffer, ho, hp, hone]

/-! ### The step at an edge -/

/-- Settles O26: the step is the accepting edge, and the decoder gives `exec i`. -/
theorem stepRunsTheDecodedInstruction : Obligations.StepRunsTheDecodedInstruction := by
  intro s p rest i hin hr hv hc ha hw hb hrsp ho hd
  rw [step_of_accept hin ha (PortIn.offer_kept hv ho) hr hw hv hc hb hrsp, runCommand, hd]

/-- With no event to come, presenting empties the port. -/
theorem presentTrace_of_no_events {s : State} (h : s.events = []) : presentTrace s = { s with trcPort := none } := by
  rw [presentTrace, h]

/-- Settles O27: the accepting edge of an idle block, whose command is the error of R221. -/
theorem stepAnswersIllegalWords : Obligations.StepAnswersIllegalWords := by
  intro s p rest why hI hw hb ho hin hr hv hc ha hd
  obtain ⟨hrsp, -, -, hevents, -⟩ := idle_facts hI hw hb
  have hstep := step_of_accept hin ha (PortIn.offer_kept hv ho) hr hw hv hc hb hrsp
  rw [runCommand, hd, afterNext_next, presentTrace_of_no_events (by simpa using hevents)] at hstep
  exact ⟨_, hstep, by simp [errorCode, hevents]⟩

/-- Settles O28: the step is the reset edge, which writes every register but the working ones. -/
theorem resetEdgeClearsEverything : Obligations.ResetEdgeClearsEverything := by
  intro s p rest hin hr ha ho
  exact ⟨_, step_of_rst hin ha ho hr, rfl⟩

/-- Settles O29: under `rst` each valid and ready is masked, and a reset edge leaves none of them pending. -/
theorem resetDrivesThePorts : Obligations.ResetDrivesThePorts := by
  refine ⟨fun s => ⟨rfl, rfl, rfl⟩, fun s t p rest hin hr hstep => ?_⟩
  rw [step_of_edge hin] at hstep
  obtain ⟨-, rfl⟩ | ⟨hr', -⟩ | ⟨hr', -⟩ | ⟨hr', -⟩ := clockEdge_next_cases hstep
  · simp [portOut, cmdReady, trcValid]
  all_goals simp [hr] at hr'

/-- Settles O39: such an edge faults. -/
theorem reservedStatusIsAFault : Obligations.ReservedStatusIsAFault := by
  intro s p rest hw hv hst hb hin hr ha ho
  exact step_of_statusReserved hin ha ho hr hw hb hv hst

/-- Settles O34: the refusals come before anything else of the edge, and before the transaction. -/
theorem unmodelledConfigurationsAreRefused : Obligations.UnmodelledConfigurationsAreRefused := by
  intro s p rest hin
  refine ⟨fun ha => ?agents, fun ha ho hw hr hv => ?early, fun c hs hw => ?transaction⟩
  case agents => simp [step_of_edge hin, clockEdge, edgeRefusal, ha]
  case early =>
    have hone : ¬ 2 ≤ p.agents := by omega
    simp [step_of_edge hin, clockEdge, edgeRefusal, breaksOffer, hone, ho, hw, hr, hv]
  case transaction => simp [runActions, act, transact_before_reset c hw]

/-- Settles O53: each port is driven from its own field. -/
theorem portsShowTheBlock : Obligations.PortsShowTheBlock := by
  intro s hw
  refine ⟨rfl, rfl, fun hv => ?response, fun e he => ?event, fun hn => ?noEvent, fun hI htrc => ?untraced⟩
  case response => simp [portOut, hv]
  case event =>
    refine ⟨?_, ?_, fun hadv => ?_, fun hjmp => ?_⟩
    · simp [portOut, trcValid, hw, he]
    · simp [portOut, he]
    · simp [portOut, he, hadv, tagCode]
    · simp [portOut, he, hjmp, tagCode]
  case noEvent => simp [portOut, trcValid, hw, hn]
  case untraced =>
    obtain ⟨-, hinv⟩ := hI
    obtain ⟨-, -, -, htrace, -⟩ := hinv hw
    obtain ⟨-, hport⟩ := htrace htrc
    simp [portOut, trcValid, hw, hport]

end Sys2Proof.Machine

/-! O30 to O33: edges that accept nothing. -/

namespace Sys2Proof.Machine

/-! ### What goes on at such an edge -/

/-- R234, R254: the response is taken, or it is held, or a cycle passes. -/
theorem progress_cases (p : PortIn) (s : State) :
    (s.rspValid = true ∧ p.rspReady = true ∧ progress p s = takeResponse s) ∨
    (s.rspValid = true ∧ p.rspReady = false ∧ progress p s = s) ∨
    (s.rspValid = false ∧ progress p s = countDown s) := by
  unfold progress
  split
  · next hv =>
    split
    · next hready => exact .inl ⟨hv, hready, rfl⟩
    · next hready => exact .inr (.inl ⟨hv, by simpa using hready, rfl⟩)
  · next hv => exact .inr (.inr ⟨by simpa using hv, rfl⟩)

/-- R254: a response that the host does not take stays as it is. -/
theorem progress_of_held {p : PortIn} {s : State} (hv : s.rspValid = true) (hready : p.rspReady = false) :
    progress p s = s := by
  simp [progress, hv, hready]

/-- R254: a response that the host takes. -/
theorem progress_of_taken {p : PortIn} {s : State} (hv : s.rspValid = true) (hready : p.rspReady = true) :
    progress p s = takeResponse s := by
  simp [progress, hv, hready]

/-- R234: without a command nothing goes on. -/
theorem progress_of_idle {p : PortIn} {s : State} (hv : s.rspValid = false) (ha : s.answer = none) : progress p s = s := by
  simp [progress, hv, countDown, ha]

/-- With no event on the port the observer records nothing. -/
theorem sampleTrace_of_empty {p : PortIn} {s : State} (h : s.trcPort = none) : sampleTrace p s = s := by
  have hlog : s.traceLog ++ s.trcPort.toList = s.traceLog := by simp [h]
  rw [sampleTrace, hlog, ite_self]

/-- An edge that presents what was on offer leaves the offer as it is. -/
theorem recordOffer_of_same {p : PortIn} {s : State} (h : p.offer = s.offered) : recordOffer p s = s := by
  rw [recordOffer, h]

/-- With no event on the port and none to come, presenting changes nothing. -/
theorem presentTrace_of_quiet {s : State} (h : s.events = []) (hp : s.trcPort = none) : presentTrace s = s := by
  rw [presentTrace_of_no_events h, ← hp]

/-- R234: an idle block holds everything. -/
theorem runOn_of_idle {p : PortIn} {s : State} (ho : p.offer = s.offered) (hv : s.rspValid = false)
    (ha : s.answer = none) (he : s.events = []) (hp : s.trcPort = none) : runOn p s = s := by
  rw [runOn, sampleTrace_of_empty hp, recordOffer_of_same ho, progress_of_idle hv ha, presentTrace_of_quiet he hp]

/-! ### The obligations -/

/-- R254: an edge that finds a response, of a block that meets the invariant, goes on. -/
theorem step_of_valid {s : State} {p : PortIn} {rest : List HostEvent} (hI : BlockInv s) (hw : s.wasReset = true)
    (hv : s.rspValid = true) (hin : s.inputs = .edge p :: rest) (hr : p.rst = false) (ha : p.agents ≤ 1)
    (ho : s.offered = none ∨ p.offer = s.offered) : step s = .next (runOn p (withInputs rest s)) := by
  obtain ⟨hb, -, -, -, hst⟩ := valid_facts hI hw hv
  exact step_of_runOn hin ha ho hr hw (.inr hb) fun _ => hst

/-- Settles O30: the edge goes on with the response held. -/
theorem responseIsHeldUntilTaken : Obligations.ResponseIsHeldUntilTaken := by
  intro s p rest hI hw hv hin hr hready ha ho
  obtain ⟨hb, -⟩ := valid_facts hI hw hv
  refine ⟨_, step_of_valid hI hw hv hin hr ha ho, ?_⟩
  rw [runOn, progress_of_held (by simpa using hv) hready]
  simp [portOut, cmdReady, hv, hb]

/-- Settles O31: the edge goes on with the response taken. -/
theorem takingTheResponseFreesThePort : Obligations.TakingTheResponseFreesThePort := by
  intro s p rest hI hw hv hin hr hready ha ho
  refine ⟨_, step_of_valid hI hw hv hin hr ha ho, ?_⟩
  rw [runOn, progress_of_taken (by simpa using hv) hready]
  simp [portOut, cmdReady, hv]

/-- Settles O32: the idle block's edge goes on, which changes nothing. -/
theorem idleBlockHoldsEveryRegister : Obligations.IdleBlockHoldsEveryRegister := by
  refine ⟨fun s p rest hI hready hin hr hv ha => ?_, fun s rest => ⟨fun hin => ?_, fun hin => ?_⟩⟩
  · obtain ⟨hw, hb, ho⟩ := hready
    obtain ⟨hrsp, hans, -, hevents, hport⟩ := idle_facts hI hw hb
    have hoffer : p.offer = s.offered := (PortIn.offer_of_not_cmdValid hv).trans ho.symm
    rw [step_of_runOn hin ha (.inl ho) hr hw (.inl hv) (by simp [hrsp])]
    exact congrArg _ (runOn_of_idle hoffer hrsp hans hevents hport)
  · rw [step, hostStep, hin]
  · rw [step, hostStep, hin]

/-- R255: an edge that does not accept the command it presents leaves it on offer. -/
theorem offered_of_not_accepted {p : PortIn} {s t : State} (h : clockEdge p s = .next t)
    (hno : p.rst = true ∨ s.wasReset = true ∧ s.busy = true) : t.inputs = s.inputs ∧ t.offered = p.offer := by
  obtain ⟨-, rfl⟩ | ⟨-, -, rfl⟩ | ⟨hr, -, hb, -⟩ | ⟨-, -, -, rfl⟩ := clockEdge_next_cases h
  · simp
  · simp
  · simp [hr, hb] at hno
  · simp

/-- Settles O33: the command stays on offer, so the next edge must present it; and the flag of the accepting edge refuses. -/
theorem brokenHandshakeIsRefused : Obligations.BrokenHandshakeIsRefused := by
  refine ⟨fun s p q rest t hno hin hv ha hstep hq => ?withdrawn, fun s p rest hw hb ho hin hr hv ha hc => ?changed⟩
  case withdrawn =>
    rw [step_of_edge hin] at hstep
    obtain ⟨hinputs, hoffered⟩ := offered_of_not_accepted hstep hno
    rw [PortIn.offer_of_cmdValid hv] at hoffered
    have hdiff : q.offer ≠ some p.command := by
      rcases hq with hq | hq <;> simp [PortIn.offer, hq]
    rw [step_of_edge hinputs]
    exact clockEdge_of_withdrawn ha hoffered hdiff
  case changed =>
    have hone : ¬ 2 ≤ p.agents := by omega
    have hkeeps : breaksOffer p (withInputs rest s) = false := by
      rcases PortIn.offer_kept hv ho with h | h <;> simp [breaksOffer, h]
    simp [step_of_edge hin, clockEdge, edgeRefusal, hone, hkeeps, hr, hv, hw, hb, hc, cmdReady]

end Sys2Proof.Machine

/-! O40, O41, O42: the invariant. What a command does to the registers, its response and its events is `commandEffect`; what an
edge does to the handshake is `progress`; and presenting the trace port makes the trace part hold again. -/

namespace Sys2Proof.Machine

/-! ### The registers -/

/-- The part of the invariant that is about the registers of R30. -/
def SeedingRegs (w : Nat) (a : ArchRegs) : Prop :=
  (a.seeded = true → a.inc.getLsbD 0 = true) ∧ (a.seeded = false → a.state = 0 ∧ a.inc = 0 ∧ a.stepCount = 0) ∧
    wrapStep w a.stepCount = a.stepCount

/-- `SeedingInv` reads the registers of R30 and W_STEP. -/
theorem seedingInv_iff (s : State) : SeedingInv s ↔ SeedingRegs s.cfg.wStep (archOf s) := Iff.rfl

/-- The reset registers meet it. -/
theorem seedingRegs_zero (w : Nat) : SeedingRegs w .zero := by simp [SeedingRegs, ArchRegs.zero]

/-- R33, R35: every instruction keeps INC odd and STEP within its width. -/
theorem instrEffect_seedingRegs (cfg : Config) {a : ArchRegs} (i : Instr) (h : SeedingRegs cfg.wStep a) :
    SeedingRegs cfg.wStep (instrEffect cfg a i).regs := by
  obtain ⟨hodd, hzero, hfits⟩ := h
  cases i with
  | seed x b => exact ⟨fun _ => seedInc_odd _ _ _, by simp [instrEffect], by simp [instrEffect]⟩
  | roll => cases hs : a.seeded <;> simp_all [instrEffect, SeedingRegs]
  | jump d => cases hs : a.seeded <;> simp_all [instrEffect, SeedingRegs]
  | trace | rdstate | rdinc | rdstep | rdstat => exact ⟨hodd, hzero, hfits⟩

/-- R33, R35 for a command transfer. -/
theorem commandEffect_seedingRegs (cfg : Config) {a : ArchRegs} (c : Command) (h : SeedingRegs cfg.wStep a) :
    SeedingRegs cfg.wStep (commandEffect cfg a c).regs := by
  unfold commandEffect
  cases decode c with
  | instr i => exact instrEffect_seedingRegs cfg i h
  | illegal _ => exact h

/-! ### The response and the events -/

/-- R87: no command answers with the reserved status. -/
theorem commandEffect_status_ne (cfg : Config) (a : ArchRegs) (c : Command) :
    (commandEffect cfg a c).response.status ≠ 3#2 := by
  unfold commandEffect
  cases decode c with
  | illegal _ => simp
  | instr i => cases i <;> cases hs : a.seeded <;> simp [instrEffect, hs]

/-- R88: an untraced command has no event. -/
@[simp] theorem traced_false (l : List TraceEvent) : traced false l = [] := rfl

/-- R88: tracing lets out no more than it is given. -/
theorem length_traced_le (trc : Bool) (l : List TraceEvent) : (traced trc l).length ≤ l.length := by
  cases trc <;> simp [traced]

/-- R88: a command has at most two events. -/
theorem length_commandEffect_events_le (cfg : Config) (a : ArchRegs) (c : Command) :
    (commandEffect cfg a c).events.length ≤ 2 := by
  unfold commandEffect
  cases decode c with
  | illegal _ => simp
  | instr i =>
    cases i with
    | seed x b => exact length_traced_le a.trc _
    | roll => cases hs : a.seeded <;> simp [instrEffect, hs, (length_traced_le a.trc _).trans]
    | jump d => cases hs : a.seeded <;> simp [instrEffect, hs, (length_traced_le a.trc _).trans]
    | trace | rdstate | rdinc | rdstep | rdstat => exact Nat.zero_le 2

/-- R88: a command that ends with TRC = 0 has no event. -/
theorem commandEffect_events_of_untraced (cfg : Config) (a : ArchRegs) (c : Command)
    (h : (commandEffect cfg a c).regs.trc = false) : (commandEffect cfg a c).events = [] := by
  unfold commandEffect at h ⊢
  cases hd : decode c with
  | illegal _ => rfl
  | instr i =>
    rw [hd] at h
    cases i with
    | seed x b => simp_all [instrEffect]
    | roll => cases hs : a.seeded <;> simp_all [instrEffect]
    | jump d => cases hs : a.seeded <;> simp_all [instrEffect]
    | trace | rdstate | rdinc | rdstep | rdstat => rfl

/-! ### The three parts of the invariant at an edge -/

/-- R88, R256: presenting makes the trace part hold where at most one event too many is still to come. -/
theorem presentTrace_traceInv {s : State} (htrc : s.trc = false → s.events = []) (hbusy : s.busy = false → s.events = [])
    (hlen : s.events.length ≤ s.wait + 1) : TraceInv (presentTrace s) := by
  obtain ⟨e, hevents, -, hwait⟩ | ⟨hevents, hport, hwait⟩ := presentTrace_cases s
  · rw [hevents] at htrc hbusy hlen
    simp only [TraceInv, presentTrace_fields]
    refine ⟨fun h => absurd (htrc h) (List.cons_ne_nil _ _), fun h => absurd (hbusy h) (List.cons_ne_nil _ _), ?_⟩
    simpa using hlen
  · simp only [TraceInv, presentTrace_fields, hevents, hport]
    refine ⟨fun h => ⟨htrc h, trivial⟩, fun _ => trivial, ?_⟩
    rcases hwait with h | h
    · exact h
    · simp [h]

/-- R43, R87, R254: the handshake goes on with its part of the invariant. -/
theorem progress_handshakeInv {p : PortIn} {s : State} (hh : HandshakeInv s) (hst : StatusInv s) :
    HandshakeInv (progress p s) ∧ StatusInv (progress p s) := by
  obtain ⟨hbusy, hexcl, hpos, hwait⟩ := hh
  obtain ⟨hans, hrsp⟩ := hst
  obtain ⟨hv, -, heq⟩ | ⟨hv, -, heq⟩ | ⟨hv, heq⟩ := progress_cases p s
  · have hnone : s.answer = none := by simpa [hv] using hexcl
    rw [heq]
    simp [HandshakeInv, StatusInv, hnone, hwait hnone]
  · rw [heq]
    exact ⟨⟨hbusy, hexcl, hpos, hwait⟩, hans, hrsp⟩
  · obtain ⟨-, hcd⟩ | ⟨r, hr, -, hcd⟩ | ⟨r, hr, hlast, hcd⟩ := countDown_cases s
    · rw [heq, hcd]
      exact ⟨⟨hbusy, hexcl, hpos, hwait⟩, hans, hrsp⟩
    · simp [heq, hcd, HandshakeInv, StatusInv, hbusy, hr, hans r hr]
    · have hmore : 1 ≤ s.wait - 1 := by omega
      simp [heq, hcd, HandshakeInv, StatusInv, hbusy, hr, hv, hmore, hans r hr]

/-- R256: a cycle passes, so one event more than the invariant allows may be left to come. -/
theorem progress_events_length {p : PortIn} {s : State} (hh : HandshakeInv s) (ht : TraceInv s) :
    (progress p s).events.length ≤ (progress p s).wait + 1 := by
  obtain ⟨-, hexcl, -, hwait⟩ := hh
  obtain ⟨-, -, hlen⟩ := ht
  simp only [progress_fields]
  obtain ⟨-, -, heq⟩ | ⟨-, -, heq⟩ | ⟨-, heq⟩ := progress_cases p s
  · simp only [heq, takeResponse_fields]; omega
  · rw [heq]; omega
  · obtain ⟨-, hcd⟩ | ⟨r, -, hlast, hcd⟩ | ⟨r, -, -, hcd⟩ := countDown_cases s <;> simp only [heq, hcd] <;> omega

/-- R256: no event is left when the edge leaves the block idle. -/
theorem progress_events_of_idle {p : PortIn} {s : State} (hh : HandshakeInv s) (ht : TraceInv s)
    (hb : (progress p s).busy = false) : (progress p s).events = [] := by
  obtain ⟨hbusy, hexcl, -, hwait⟩ := hh
  obtain ⟨-, -, hlen⟩ := ht
  have hnone : s.answer = none := by
    obtain ⟨hv, -, -⟩ | ⟨hv, -, -⟩ | ⟨hv, heq⟩ := progress_cases p s
    · simpa [hv] using hexcl
    · simpa [hv] using hexcl
    · simp only [heq, countDown_fields] at hb
      simpa [hb, hv] using hbusy
  rw [hwait hnone] at hlen
  simpa using hlen

/-! ### The invariant at an edge -/

/-- The next state of a command transfer is the one that `CommandResult` describes. -/
theorem commandResult_of_runCommand {c : Command} {s u : State} (h : runCommand c s = .next u) : CommandResult c s u := by
  obtain ⟨u', hu', hres⟩ := runCommand_result c s
  exact Host.Outcome.next.inj (hu'.symm.trans h) ▸ hres

/-- R254: the accepting edge writes no register of R30. -/
@[simp] theorem archOf_acceptCommand (s : State) : archOf (acceptCommand s) = archOf s := rfl

/-- R256: presenting writes no register of R30. -/
@[simp] theorem archOf_presentTrace (s : State) : archOf (presentTrace s) = archOf s := by simp [archOf]

/-- An idle block with nothing pending meets all but the first part by being idle. -/
theorem blockInv_of_idle {s : State} (hcfg : s.cfg.wellFormed = true) (hseed : SeedingInv s) (hbusy : s.busy = false)
    (hrsp : s.rspValid = false) (hans : s.answer = none) (hwait : s.wait = 0) (hevents : s.events = [])
    (hport : s.trcPort = none) : BlockInv s := by
  refine ⟨hcfg, fun _ => ⟨hseed, ?_, ?_, ?_⟩⟩
  · simp [HandshakeInv, hbusy, hrsp, hans, hwait]
  · simp [StatusInv, hrsp, hans]
  · simp [TraceInv, hevents, hport]

/-- The invariant does not read what the host drives next. -/
theorem blockInv_withInputs {s : State} (l : List HostEvent) (h : BlockInv s) : BlockInv (withInputs l s) := h

/-- The invariant does not read the observer's record. -/
theorem blockInv_sampleTrace (p : PortIn) {s : State} (h : BlockInv s) : BlockInv (sampleTrace p s) := by
  unfold sampleTrace
  split <;> exact h

/-- R250: a reset edge makes the invariant hold. -/
theorem blockInv_resetEdge (p : PortIn) {s : State} (hcfg : s.cfg.wellFormed = true) : BlockInv (resetEdge p s) := by
  have hseed : SeedingInv (resetEdge p s) := seedingRegs_zero _
  apply blockInv_of_idle <;> simp [hcfg, hseed]

/-- R254: an accepting edge of an idle block keeps the invariant. -/
theorem blockInv_accept {c : Command} {s u : State} (hI : BlockInv s) (hw : s.wasReset = true) (hb : s.busy = false)
    (hu : CommandResult c (acceptCommand s) u) : BlockInv (presentTrace u) := by
  obtain ⟨hrsp, -, -, hevents, -⟩ := idle_facts hI hw hb
  obtain ⟨hcfg, hinv⟩ := hI
  obtain ⟨hseed, -, -, -⟩ := hinv hw
  have hucfg : u.cfg = s.cfg := hu.cfg
  have hwait : 1 ≤ u.wait := hu.wait ▸ commandLatency_pos c hcfg
  have huregs : archOf u = (commandEffect s.cfg (archOf s) c).regs := hu.regs
  have huevents : u.events = (commandEffect s.cfg (archOf s) c).events := by simpa [hevents] using hu.events
  have hurspValid : u.rspValid = false := hu.rspValid.trans hrsp
  have hubusy : u.busy = true := hu.busy
  have htrc : u.trc = (commandEffect s.cfg (archOf s) c).regs.trc := congrArg ArchRegs.trc huregs
  refine ⟨by simpa [hucfg] using hcfg, fun _ => ⟨?seeding, ?handshake, ?status, ?trace⟩⟩
  case seeding =>
    rw [seedingInv_iff] at hseed ⊢
    simpa [hucfg, huregs] using commandEffect_seedingRegs s.cfg c hseed
  case handshake => simp [HandshakeInv, hurspValid, hubusy, hu.answer, hwait]
  case status => simp [StatusInv, hurspValid, hu.answer, commandEffect_status_ne]
  case trace =>
    refine presentTrace_traceInv (fun h => ?_) (by simp [hubusy]) ?_
    · exact huevents.trans (commandEffect_events_of_untraced _ _ _ (htrc ▸ h))
    · have hlen := length_commandEffect_events_le s.cfg (archOf s) c
      rw [huevents]
      omega

/-- R234, R254: an edge that accepts nothing keeps the invariant. -/
theorem blockInv_runOn (p : PortIn) {s : State} (hI : BlockInv s) (hw : s.wasReset = true) : BlockInv (runOn p s) := by
  obtain ⟨hcfg, hinv⟩ := hI
  obtain ⟨hseed, hhand, hstat, htrace⟩ := hinv hw
  -- Sampling and recording the offer write nothing that the invariant reads.
  have hhand' : HandshakeInv (recordOffer p (sampleTrace p s)) := by simpa [HandshakeInv] using hhand
  have hstat' : StatusInv (recordOffer p (sampleTrace p s)) := by simpa [StatusInv] using hstat
  have htrace' : TraceInv (recordOffer p (sampleTrace p s)) := by simpa [TraceInv] using htrace
  obtain ⟨hhand'', hstat''⟩ := progress_handshakeInv (p := p) hhand' hstat'
  refine ⟨by simpa using hcfg, fun _ => ⟨?seeding, ?handshake, ?status, ?trace⟩⟩
  case seeding => simpa [SeedingInv] using hseed
  case handshake => simpa [runOn, HandshakeInv] using hhand''
  case status => simpa [runOn, StatusInv] using hstat''
  case trace =>
    refine presentTrace_traceInv (fun h => ?_) (progress_events_of_idle hhand' htrace')
      (progress_events_length hhand' htrace')
    obtain ⟨huntraced, -⟩ := htrace'
    simp only [progress_fields] at h ⊢
    obtain ⟨hevents, -⟩ := huntraced h
    exact hevents

/-- Every edge keeps the invariant. -/
theorem blockInv_clockEdge {p : PortIn} {s t : State} (hI : BlockInv s) (h : clockEdge p s = .next t) : BlockInv t := by
  obtain ⟨-, rfl⟩ | ⟨-, hw, rfl⟩ | ⟨-, hw, hb, -, u, hu, rfl⟩ | ⟨-, hw, -, rfl⟩ := clockEdge_next_cases h
  · exact blockInv_resetEdge p hI.left
  · -- Before the first reset the invariant asks for legal parameters only.
    exact ⟨by simpa using hI.left, fun h => by simp [hw] at h⟩
  · have hres := commandResult_of_runCommand hu
    exact blockInv_accept (blockInv_sampleTrace p hI) (by simpa using hw) (by simpa using hb) hres
  · exact blockInv_runOn p hI hw

/-- Settles O41: a step is an edge with the rest of the inputs left, and every edge keeps the invariant. -/
theorem everyStepKeepsTheInvariant : Obligations.EveryStepKeepsTheInvariant := by
  intro s t hI hstep
  obtain ⟨p, rest, -, hedge⟩ := step_next_cases hstep
  exact blockInv_clockEdge (blockInv_withInputs rest hI) hedge

/-- Settles O40: the reset state is idle and has the reset registers and legal parameters. -/
theorem resetMeetsTheInvariant : Obligations.ResetMeetsTheInvariant :=
  ⟨blockInv_of_idle (by decide) (seedingRegs_zero _) rfl rfl rfl rfl rfl rfl, rfl, rfl, rfl⟩

/-- Settles O42: only the reserved status faults, and the invariant excludes it. -/
theorem noStepFaults : Obligations.NoStepFaults := by
  intro s f hI hw hstep
  obtain ⟨p, rest, hedge⟩ : ∃ p rest, clockEdge p (withInputs rest s) = .fault f := by
    unfold step hostStep at hstep
    split at hstep
    · next hin => exact ⟨PortIn.idle, [], by rwa [← hin]⟩
    · next p rest hin => exact ⟨p, rest, hstep⟩
    · cases hstep
    · cases hstep
  obtain ⟨-, hv, hst⟩ := reservedStatus_of_clockEdge_fault hedge
  obtain ⟨-, -, -, -, hne⟩ := valid_facts hI hw hv
  exact hne hst

end Sys2Proof.Machine

/-! O43, O44: what a step may write. -/

namespace Sys2Proof.Machine

/-- R41: what the instruction writes of the registers of R30, by the table's rights. -/
structure WritesAsNamed (i : Instr) (a b : ArchRegs) : Prop where
  inc : b.inc ≠ a.inc → ∃ x y, i = .seed x y
  seeded : b.seeded ≠ a.seeded → (∃ x y, i = .seed x y) ∧ b.seeded = true
  trc : b.trc ≠ a.trc → i = .trace
  stateOrStep : b.state ≠ a.state ∨ b.stepCount ≠ a.stepCount →
    (∃ x y, i = .seed x y) ∨ (i = .roll ∧ a.seeded = true) ∨ (∃ d, i = .jump d) ∧ a.seeded = true

/-- R30, R41: every instruction keeps to the table. -/
theorem instrEffect_writesAsNamed (cfg : Config) (a : ArchRegs) (i : Instr) :
    WritesAsNamed i a (instrEffect cfg a i).regs := by
  cases i with
  | seed x y => constructor <;> simp [instrEffect]
  | roll => cases hs : a.seeded <;> constructor <;> simp [instrEffect, hs]
  | jump d => cases hs : a.seeded <;> constructor <;> simp [instrEffect, hs]
  | trace | rdstate | rdinc | rdstep | rdstat => constructor <;> simp [instrEffect]

/-- An edge that accepts nothing writes no register of R30. -/
@[simp] theorem archOf_runOn (p : PortIn) (s : State) : archOf (runOn p s) = archOf s := by simp [archOf]

/-- Settles O43: an edge resets, or runs a command, which keeps to the table if it is legal and writes nothing if not, or goes
on. -/
theorem onlyTheNamedCommandsWriteRegisters : Obligations.OnlyTheNamedCommandsWriteRegisters := by
  intro s t hw hstep
  obtain ⟨p, rest, hin, hedge⟩ := step_next_cases hstep
  obtain ⟨hr, -⟩ | ⟨-, hw', -⟩ | ⟨-, -, hb, hv, u, hu, rfl⟩ | ⟨-, -, -, rfl⟩ := clockEdge_next_cases hedge
  · rcases hin with hin | ⟨-, -, rfl⟩
    · exact .inl ⟨p, rest, hin, hr⟩
    · cases hr
  · simp [hw] at hw'
  · have hres := commandResult_of_runCommand hu
    have hregs : archOf (presentTrace u) = (commandEffect s.cfg (archOf s) p.command).regs := by
      simpa [archOf] using hres.regs
    have hinput : s.inputs = .edge p :: rest := hin.resolve_right (by rintro ⟨-, -, rfl⟩; cases hv)
    unfold commandEffect at hregs
    cases hd : decode p.command with
    | illegal _ =>
      rw [hd] at hregs
      exact .inr (.inr (by simpa [archOf] using hregs))
    | instr i =>
      rw [hd] at hregs
      obtain ⟨hinc, hseeded, htrc, hstate⟩ := hregs ▸ instrEffect_writesAsNamed s.cfg (archOf s) i
      exact .inr (.inl ⟨p, rest, i, hinput, hv, hb, hd, hinc, hseeded, htrc, hstate⟩)
  · exact .inr (.inr (by simp))

/-- R8: no edge writes a parameter. -/
theorem cfg_of_clockEdge {p : PortIn} {s t : State} (h : clockEdge p s = .next t) : t.cfg = s.cfg := by
  obtain ⟨-, rfl⟩ | ⟨-, -, rfl⟩ | ⟨-, -, -, -, u, hu, rfl⟩ | ⟨-, -, -, rfl⟩ := clockEdge_next_cases h
  · simp
  · simp
  · have hres := commandResult_of_runCommand hu
    simp [hres.cfg]
  · simp

/-- Settles O44: no edge does. -/
theorem noStepWritesAParameter : Obligations.NoStepWritesAParameter := by
  intro s t hstep
  obtain ⟨p, rest, -, hedge⟩ := step_next_cases hstep
  simpa using cfg_of_clockEdge hedge

end Sys2Proof.Machine

/-! O35, O36, O37: the response and the events of a command in progress. -/

namespace Sys2Proof.Machine

/-! ### A command in progress -/

/-- R43, R254, R258: while a command is in progress BUSY is 1, no response is valid and a cycle is left. -/
theorem in_progress_facts {s : State} {r : Response} (hI : BlockInv s) (hw : s.wasReset = true) (ha : s.answer = some r) :
    s.busy = true ∧ s.rspValid = false ∧ 1 ≤ s.wait := by
  obtain ⟨-, hinv⟩ := hI
  obtain ⟨-, ⟨hbusy, hexcl, hpos, -⟩, -, -⟩ := hinv hw
  exact ⟨by simpa [ha] using hbusy, by simpa [ha] using hexcl, hpos (by simp [ha])⟩

section Cycle

variable {p : PortIn} {s : State} {r : Response} (hv : s.rspValid = false) (ha : s.answer = some r)
include hv ha

/-- R258: the last cycle makes the response valid. -/
theorem runOn_of_last_cycle (hwait : s.wait ≤ 1) :
    (runOn p s).rspValid = true ∧ (runOn p s).rspStatus = r.status ∧ (runOn p s).rspData = r.data ∧
      (runOn p s).busy = s.busy := by
  simp [runOn, progress, hv, countDown, ha, hwait]

/-- R258: any other cycle leaves one cycle less. -/
theorem runOn_of_cycle (hwait : ¬ s.wait ≤ 1) :
    (runOn p s).answer = some r ∧ (runOn p s).wait = s.wait - 1 := by
  simp [runOn, progress, hv, countDown, ha, hwait]

end Cycle

/-- R254, R258: an edge of one host that keeps its offer is a cycle of the command in progress, the last or another. -/
theorem step_cycle {s : State} {p : PortIn} {rest : List HostEvent} {r : Response} (hI : BlockInv s)
    (hw : s.wasReset = true) (ha : s.answer = some r) (hin : s.inputs = .edge p :: rest) (hr : p.rst = false)
    (hone : p.agents ≤ 1) (ho : s.offered = none ∨ p.offer = s.offered) :
    ∃ t, t = runOn p (withInputs rest s) ∧ step s = .next t ∧ BlockInv t ∧ t.wasReset = true ∧ t.offered = p.offer ∧
      t.inputs = rest ∧
      ((s.wait ≤ 1 ∧ t.rspValid = true ∧ t.rspStatus = r.status ∧ t.rspData = r.data ∧ t.busy = true) ∨
        (¬ s.wait ≤ 1 ∧ t.answer = some r ∧ t.wait = s.wait - 1)) := by
  obtain ⟨hb, hv, -⟩ := in_progress_facts hI hw ha
  have hstep : step s = .next (runOn p (withInputs rest s)) := step_of_runOn hin hone ho hr hw (.inr hb) (by simp [hv])
  refine ⟨_, rfl, hstep, everyStepKeepsTheInvariant s _ hI hstep, by simpa using hw, by simp, by simp, ?_⟩
  by_cases hlast : s.wait ≤ 1
  · obtain ⟨hvalid, hstatus, hdata, hbusy⟩ := runOn_of_last_cycle (p := p) (s := withInputs rest s) hv ha hlast
    exact .inl ⟨hlast, hvalid, hstatus, hdata, hbusy.trans hb⟩
  · exact .inr ⟨hlast, runOn_of_cycle (s := withInputs rest s) hv ha hlast⟩

/-- Settles O35: by induction on the edges, each of which is a cycle of the command in progress. -/
theorem responseArrivesAfterTheLatency : Obligations.ResponseArrivesAfterTheLatency := by
  intro s r ps rest
  induction ps generalizing s with
  | nil =>
    intro hI hw ha hlen
    obtain ⟨-, -, hpos⟩ := in_progress_facts hI hw ha
    rw [List.length_nil] at hlen
    omega
  | cons p ps ih =>
    intro hI hw ha hlen hin hps hoffers
    obtain ⟨hb, hv, -⟩ := in_progress_facts hI hw ha
    obtain ⟨⟨hr, hone⟩, hps⟩ := List.forall_mem_cons.mp hps
    obtain ⟨ho, hoffers⟩ := hoffers
    have hin : s.inputs = .edge p :: (ps.map .edge ++ rest) := hin
    obtain ⟨t, -, hstep, hI', hw', ho', hin', hcycle⟩ := step_cycle hI hw ha hin hr hone ho
    rw [← hlen]
    rw [List.length_cons] at hlen ⊢
    obtain ⟨hlast, hvalid, hstatus, hdata, hb'⟩ | ⟨hmore, hans, hwait⟩ := hcycle
    · obtain rfl : ps = [] := List.eq_nil_of_length_eq_zero (by omega)
      refine ⟨fun k hk => ?_, t, run_succ_of_next 0 hstep, hvalid, hstatus, hdata, hb', hin'⟩
      obtain rfl : k = 0 := by simpa using hk
      exact ⟨s, rfl, hv, hb⟩
    · have hlen' : ps.length = t.wait := by omega
      obtain ⟨hbefore, t', ht', hend⟩ := ih t hI' hw' hans hlen' hin' hps (ho' ▸ hoffers)
      rw [← hlen'] at hbefore ht'
      refine ⟨fun k hk => ?_, t', (run_succ_of_next ps.length hstep).trans ht', hend⟩
      cases k with
      | zero => exact ⟨s, rfl, hv, hb⟩
      | succ k =>
        obtain ⟨u, hu, hquiet⟩ := hbefore k (Nat.lt_of_succ_lt_succ hk)
        exact ⟨u, (run_succ_of_next k hstep).trans hu, hquiet⟩

/-- R254: only an edge that takes the valid response adds to the host's record. -/
theorem taken_of_clockEdge {p : PortIn} {s t : State} (h : clockEdge p s = .next t) (ht : t.taken ≠ s.taken) :
    s.rspValid = true ∧ t = runOn p s := by
  obtain ⟨-, rfl⟩ | ⟨-, -, rfl⟩ | ⟨-, -, -, -, u, hu, rfl⟩ | ⟨-, -, -, rfl⟩ := clockEdge_next_cases h
  · simp at ht
  · simp at ht
  · have hres := commandResult_of_runCommand hu
    simp [hres.taken] at ht
  · refine ⟨?_, rfl⟩
    by_contra hv
    simp [runOn, progress, hv] at ht

/-- Settles O36: the response that is taken was valid, so the invariant leaves no event to come. -/
theorem eventsComeBeforeTheResponseIsTaken : Obligations.EventsComeBeforeTheResponseIsTaken := by
  intro s t hI hw hstep htaken
  obtain ⟨p, rest, -, hedge⟩ := step_next_cases hstep
  obtain ⟨hv, rfl⟩ := taken_of_clockEdge hedge htaken
  obtain ⟨-, -, -, hevents, -⟩ := valid_facts hI hw hv
  rw [runOn, presentTrace_of_no_events (by simpa using hevents)]
  exact ⟨hv, hevents, by simpa using hevents, rfl⟩

/-- Settles O37: such an edge goes on, sampling first and presenting last. -/
theorem traceEventsGoOutOnePerCycle : Obligations.TraceEventsGoOutOnePerCycle := by
  intro s t p rest hw hin hr hn hstep
  rw [step_of_edge hin] at hstep
  obtain ⟨hr', -⟩ | ⟨-, hw', -⟩ | ⟨-, -, hb, hv, -⟩ | ⟨-, -, -, rfl⟩ := clockEdge_next_cases hstep
  · simp [hr] at hr'
  · simp [hw] at hw'
  · simp [hv, show s.busy = false from hb] at hn
  · refine ⟨by simp, ?_⟩
    obtain ⟨e, hevents, hport, -⟩ | ⟨hevents, hport, -⟩ :=
      presentTrace_cases (progress p (recordOffer p (sampleTrace p (withInputs rest s))))
    · exact .inr ⟨e, hport, by simpa [runOn] using hevents⟩
    · exact .inl ⟨hport, by simpa [runOn] using hevents⟩

end Sys2Proof.Machine

/-! O38: the observer's record takes part in no operation of the block. -/

namespace Sys2Proof.Machine

/-- The state with `l` as the observer's record. -/
def withLog (l : List TraceEvent) (s : State) : State := { s with traceLog := l }

/-- Sampling is a change of the record. -/
theorem sampleTrace_eq_withLog (p : PortIn) (s : State) :
    sampleTrace p s = withLog (s.traceLog ++ if p.traceSampled then s.trcPort.toList else []) s := by
  cases hp : p.traceSampled <;> simp [sampleTrace, withLog, hp]

/-- The record changes no instruction's effect. -/
theorem exec_withLog (l : List TraceEvent) (i : Instr) (s : State) :
    exec i (withLog l s) = afterNext (withLog l) (exec i s) := by
  cases i with
  | seed a b => exact (execSeed_eq a b _).trans (congrArg (afterNext (withLog l)) (execSeed_eq a b s)).symm
  | roll =>
    show execRoll (withLog l s) = afterNext (withLog l) (execRoll s)
    cases hs : s.seeded with
    | false =>
      rw [execRoll_of_unseeded hs, execRoll_of_unseeded (s := withLog l s) hs]
      rfl
    | true =>
      rw [execRoll_of_seeded hs, execRoll_of_seeded (s := withLog l s) hs, advance_eq, advance_eq]
      rfl
  | jump d =>
    show execJump d (withLog l s) = afterNext (withLog l) (execJump d s)
    cases hs : s.seeded with
    | false =>
      rw [execJump_of_unseeded d hs, execJump_of_unseeded d (s := withLog l s) hs]
      rfl
    | true =>
      rw [execJump_of_seeded d hs, execJump_of_seeded d (s := withLog l s) hs]
      rfl
  | trace | rdstate | rdinc | rdstep | rdstat => rfl

/-- The record changes no transfer's effect. -/
theorem runCommand_withLog (l : List TraceEvent) (c : Command) (s : State) :
    runCommand c (withLog l s) = afterNext (withLog l) (runCommand c s) := by
  unfold runCommand
  cases decode c with
  | instr i => exact exec_withLog l i s
  | illegal _ => rfl

/-- Presenting does not read the record. -/
theorem presentTrace_withLog (l : List TraceEvent) (s : State) :
    presentTrace (withLog l s) = withLog l (presentTrace s) := by
  cases hevents : s.events with
  | nil =>
    rw [presentTrace_of_no_events hevents, presentTrace_of_no_events (s := withLog l s) hevents]
    rfl
  | cons e rest => by_cases hwait : s.wait ≤ rest.length <;> simp [presentTrace, withLog, hevents, hwait]

/-- Counting down does not read the record. -/
theorem countDown_withLog (l : List TraceEvent) (s : State) : countDown (withLog l s) = withLog l (countDown s) := by
  cases hans : s.answer with
  | none => simp [countDown, withLog, hans]
  | some r => by_cases hwait : s.wait ≤ 1 <;> simp [countDown, withLog, hans, hwait]

/-- The handshake does not read the record. -/
theorem progress_withLog (l : List TraceEvent) (p : PortIn) (s : State) :
    progress p (withLog l s) = withLog l (progress p s) := by
  obtain ⟨hv, hready, heq⟩ | ⟨hv, hready, heq⟩ | ⟨hv, heq⟩ := progress_cases p s
  · rw [heq, progress_of_taken (s := withLog l s) hv hready]
    rfl
  · rw [heq, progress_of_held (s := withLog l s) hv hready]
  · rw [heq, ← countDown_withLog, progress, if_neg (by simpa [withLog] using hv)]

/-- An edge that accepts nothing ends the same but for the record, whatever it samples. -/
theorem runOn_without_log (p : PortIn) (s : State) :
    withLog [] (runOn p s) = withLog [] (presentTrace (progress p (recordOffer p s))) := by
  have hoffer : ∀ l, recordOffer p (withLog l s) = withLog l (recordOffer p s) := fun _ => rfl
  rw [runOn, sampleTrace_eq_withLog, hoffer, progress_withLog, presentTrace_withLog]
  rfl

/-- An accepting edge ends the same but for the record, whatever it samples. -/
theorem accept_without_log (c : Command) (p : PortIn) (s : State) :
    afterNext (withLog []) (afterNext presentTrace (runCommand c (acceptCommand (sampleTrace p s)))) =
      afterNext (withLog []) (afterNext presentTrace (runCommand c (acceptCommand s))) := by
  have haccept : ∀ l, acceptCommand (withLog l s) = withLog l (acceptCommand s) := fun _ => rfl
  obtain ⟨u, hu, -⟩ := runCommand_result c (acceptCommand s)
  rw [sampleTrace_eq_withLog, haccept, runCommand_withLog, hu]
  simp only [afterNext_next, presentTrace_withLog]
  rfl

/-- What an edge leaves, its record set aside, does not depend on what it samples. -/
theorem clockEdge_traceSampled (b : Bool) (p : PortIn) (s : State) :
    afterNext (withLog []) (clockEdge p s) = afterNext (withLog []) (clockEdge { p with traceSampled := b } s) := by
  have hrefusal : edgeRefusal { p with traceSampled := b } s = edgeRefusal p s := rfl
  simp only [clockEdge, hrefusal]
  cases edgeRefusal p s with
  | some r => rfl
  | none =>
    dsimp only
    split_ifs
    · rfl
    · rfl
    · rfl
    · rw [accept_without_log, accept_without_log]
    · rw [afterNext_next, afterNext_next, runOn_without_log, runOn_without_log]
      rfl

/-- Settles O38: the step is the edge at the head of the inputs. -/
theorem missedEventsChangeNothingElse : Obligations.MissedEventsChangeNothingElse := by
  intro s p rest b
  exact clockEdge_traceSampled b p (withInputs rest s)

end Sys2Proof.Machine

/-! O9, O10, O12, O13: the first SEED, and the output permutation bit by bit. -/

namespace Sys2Proof.Machine

/-! ### The first SEED -/

/-- R133: on INC = 0 both modes of the increment update set the increment value. -/
theorem seedInc_zero (mode : SeedIncMode) (b : U128) : seedInc mode 0#128 b = incval b := by
  cases mode <;> simp [seedInc, or128]

/-- R134: STATE = 0 is cleared already. -/
theorem seedStart_zero (clear : Bool) : seedStart clear 0#128 = 0#128 := by
  cases clear <;> rfl

/-- R114: bit 127 of the operand is lost, and the value is odd. -/
theorem incval_toNat_low127 (b : U128) : (incval b).toNat = 2 * (b.toNat % 2 ^ 127) + 1 := by
  rw [incval_toNat]
  omega

/-- R15: the step transform of 0. -/
theorem lcg_zero (inc : U128) : lcg inc 0#128 = inc := by simp [lcg]

/-- R30: the registers before the first SEED. -/
theorem unseeded_facts {s : State} (hI : BlockInv s) (hw : s.wasReset = true) (hs : s.seeded = false) :
    s.state = 0 ∧ s.inc = 0 ∧ s.stepCount = 0 := by
  obtain ⟨-, hinv⟩ := hI
  obtain ⟨⟨-, hzero, -⟩, -⟩ := hinv hw
  exact hzero hs

/-- R132 corner case (5): the registers after a SEED of zero registers, whatever the parameters. -/
theorem execSeed_of_zero (a b : U128) {s : State} (hstate : s.state = 0) (hinc : s.inc = 0) (hstep : s.stepCount = 0) :
    ∃ t, exec (.seed a b) s = .next t ∧ t.inc = incval b ∧ t.state = lcg (incval b) (incval b + a) ∧
      t.stepCount = wrapStep s.cfg.wStep 2 ∧ t.seeded = true :=
  ⟨_, execSeed_eq a b s, by simp [hstate, hinc, hstep, seedInc_zero, seedStart_zero, lcg_zero]⟩

/-- Settles O9: before the first SEED the registers it reads are 0. -/
theorem firstSeedIgnoresTheParameters : Obligations.FirstSeedIgnoresTheParameters := by
  intro a b s hI hw hs
  obtain ⟨hstate, hinc, hstep⟩ := unseeded_facts hI hw hs
  obtain ⟨t, ht, htinc, htstate, htstep, htseeded⟩ := execSeed_of_zero a b hstate hinc hstep
  exact ⟨t, ht, by rw [htinc, incval_toNat_low127], by rw [htinc, htstate], htstep, htseeded⟩

/-- R137: the increment value carries bits 126:0 of the selector, one place up. -/
theorem incval_eq_iff (b b' : U128) : incval b = incval b' ↔ ∀ i < 127, b.getLsbD i = b'.getLsbD i := by
  have hlow : incval b = incval b' ↔ b.setWidth 127 = b'.setWidth 127 := by
    rw [← BitVec.toNat_inj, ← BitVec.toNat_inj, incval_toNat_low127, incval_toNat_low127, BitVec.toNat_setWidth,
      BitVec.toNat_setWidth]
    omega
  rw [hlow, BitVec.eq_of_getLsbD_eq_iff]
  refine forall₂_congr fun i hi => ?_
  rw [BitVec.getLsbD_setWidth, BitVec.getLsbD_setWidth, decide_eq_true hi, Bool.true_and, Bool.true_and]

/-- Settles O10: after a first SEED, INC is the increment value of the selector. -/
theorem streamsDifferByTheLow127Bits : Obligations.StreamsDifferByTheLow127Bits := by
  intro a a' b b' s s' t t' hI hw hs hI' hw' hs' ht ht'
  obtain ⟨hstate, hinc, hstep⟩ := unseeded_facts hI hw hs
  obtain ⟨hstate', hinc', hstep'⟩ := unseeded_facts hI' hw' hs'
  obtain ⟨u, hu, huinc, -⟩ := execSeed_of_zero a b hstate hinc hstep
  obtain ⟨u', hu', huinc', -⟩ := execSeed_of_zero a' b' hstate' hinc' hstep'
  obtain rfl : u = t := Host.Outcome.next.inj (hu.symm.trans ht)
  obtain rfl : u' = t' := Host.Outcome.next.inj (hu'.symm.trans ht')
  rw [huinc, huinc', incval_eq_iff]

/-! ### The output -/

/-- R112: bit `k` of the fold is the XOR of the bits `k` of the halves. -/
theorem fold64_bit (x : U128) {k : Nat} (hk : k < 64) : (fold64 x).getLsbD k = (x.getLsbD (64 + k) ^^ x.getLsbD k) := by
  simp [fold64, hi64, lo64, hk]

/-- Settles O12: the rotation moves the fold's bits. -/
theorem outputIsTheFoldRotatedRight : Obligations.OutputIsTheFoldRotatedRight := by
  intro x i hi
  dsimp only
  rw [xslrr, rotr64_bit _ _ i hi, top6_toNat, fold64_bit x (Nat.mod_lt _ (by decide))]

/-- R115: a rotation loses no bit. -/
theorem rotr64_eq_zero_iff (v : U64) (r : U6) : rotr64 v r = 0 ↔ v = 0 := by
  constructor
  · intro h
    apply BitVec.eq_of_getLsbD_eq
    intro k hk
    -- Bit `k` of the operand stands `r` places lower in the result.
    have hr := r.isLt
    have hplace : ((k + (64 - r.toNat)) % 64 + r.toNat) % 64 = k := by omega
    have hbit := rotr64_bit v r ((k + (64 - r.toNat)) % 64) (Nat.mod_lt _ (by decide))
    rw [hplace, h] at hbit
    simpa using hbit.symm
  · rintro rfl
    simp [rotr64]

/-- Settles O13: the rotation of the fold is 0 exactly when the fold is, which is when the halves are equal. -/
theorem outputIsZeroExactlyOnEqualHalves : Obligations.OutputIsZeroExactlyOnEqualHalves := by
  intro x
  rw [xslrr, rotr64_eq_zero_iff, fold64, ← hi64_toNat, ← lo64_toNat, BitVec.toNat_inj]
  exact BitVec.xor_eq_zero_iff

end Sys2Proof.Machine

/-! O15, O18, O19: the step transform and its powers. -/

namespace Sys2Proof.Machine

/-- Bit 0 tells an odd number. -/
theorem getLsbD_zero_eq (u : U128) : u.getLsbD 0 = decide (u.toNat % 2 = 1) := by
  rw [BitVec.getLsbD, Nat.testBit_zero]

/-! ### The jump circuit -/

/-- The working registers' CUR pair as an affine map (R171). -/
def JumpRegs.cur (j : JumpRegs) : U128 → U128 := affine j.curM j.curP

/-- The working registers' ACC pair as an affine map (R171). -/
def JumpRegs.acc (j : JumpRegs) : U128 → U128 := affine j.accM j.accP

/-- R171: an iteration squares CUR. -/
theorem jumpIter_cur (j : JumpRegs) : (jumpIter j).cur = j.cur^[2] := by
  funext x
  exact (affine_square j.curM j.curP x).symm

/-- R171: an iteration composes CUR onto ACC when bit 0 of DLT is set. -/
theorem jumpIter_acc (j : JumpRegs) (x : U128) : (jumpIter j).acc x = j.cur^[j.dlt.toNat % 2] (j.acc x) := by
  obtain hpar | hpar := Nat.mod_two_eq_zero_or_one j.dlt.toNat
  · simp only [JumpRegs.acc, jumpIter, getLsbD_zero_eq, hpar]
    rfl
  · simp only [JumpRegs.acc, JumpRegs.cur, jumpIter, getLsbD_zero_eq, hpar, affine, add128, mul128, decide_true, if_true,
      Function.iterate_one]
    ring

/-- R171: `n` iterations compose onto ACC the power of CUR that the low `n` bits of DLT name. -/
theorem jumpIterate_acc (n : Nat) (j : JumpRegs) (x : U128) :
    (jumpIterate n j).acc x = j.cur^[j.dlt.toNat % 2 ^ n] (j.acc x) := by
  induction n generalizing j with
  | zero => simp [jumpIterate, Nat.mod_one]
  | succ n ih =>
    have hdlt : (jumpIter j).dlt.toNat = j.dlt.toNat / 2 := by simp [jumpIter, Nat.shiftRight_eq_div_pow]
    have hpow : j.dlt.toNat % 2 ^ (n + 1) = 2 * (j.dlt.toNat / 2 % 2 ^ n) + j.dlt.toNat % 2 := by
      rw [pow_succ', Nat.mod_mul, Nat.add_comm]
    rw [jumpIterate, ih, hdlt, jumpIter_cur, jumpIter_acc, ← Function.iterate_mul, hpow, Function.iterate_add_apply]

/-- R171: `n` iterations shift `n` bits of DLT out and count `n`. -/
theorem jumpIterate_dlt_iter (n : Nat) (j : JumpRegs) :
    (jumpIterate n j).dlt = j.dlt >>> n ∧ (jumpIterate n j).iter = j.iter + BitVec.ofNat 8 n := by
  induction n generalizing j with
  | zero => simp [jumpIterate]
  | succ n ih =>
    obtain ⟨hdlt, hiter⟩ := ih (jumpIter j)
    rw [jumpIterate, hdlt, hiter]
    refine ⟨?_, ?_⟩
    · simp [jumpIter, ← BitVec.shiftRight_add, Nat.add_comm]
    · show j.iter + 1#8 + BitVec.ofNat 8 n = _
      rw [BitVec.ofNat_add]
      ac_rfl

/-- R15, R120: the step transform as an affine map. -/
theorem affine_MUL (inc : U128) : affine Config.MUL inc = lcg inc := by
  funext x
  rw [affine, lcg, mul_literal]
  rfl

/-- R171, R172: applying the coefficients is taking the step transform that many times. -/
theorem jumpCoef_apply (inc d x : U128) :
    (jumpCoef inc d).accM * x + (jumpCoef inc d).accP = (lcg inc)^[d.toNat] x := by
  have hid : (jumpStart inc d).acc x = x := by simp [JumpRegs.acc, jumpStart, affine, add128, mul128]
  have hacc : (jumpCoef inc d).acc x = (affine Config.MUL inc)^[d.toNat % 2 ^ 128] ((jumpStart inc d).acc x) :=
    jumpIterate_acc 128 (jumpStart inc d) x
  rw [hid, affine_MUL, Nat.mod_eq_of_lt d.isLt] at hacc
  exact hacc

/-- Settles O15: the accumulated map is the power that 128 bits of `d` name, and 128 shifts clear DLT. -/
theorem jumpCoefficientsAreThePower : Obligations.JumpCoefficientsAreThePower := by
  intro inc d x
  obtain ⟨hdlt, hiter⟩ := jumpIterate_dlt_iter 128 (jumpStart inc d)
  refine ⟨jumpCoef_apply inc d x, hdlt.trans ?_, hiter⟩
  exact BitVec.ushiftRight_eq_zero (Nat.le_refl 128)

/-! ### The step transform is a bijection -/

/-- The inverse of the multiplier mod 2^128. -/
def mulInverse : U128 := 0x07DDA22B9397986098ABC8B0716EAC8D#128

/-- The step transform undone: `f⁻¹(y) = MUL⁻¹ * (y - INC)`. -/
def lcgBack (inc y : U128) : U128 := mulInverse * (y - inc)

/-- R130: one step and back. -/
theorem lcgBack_lcg (inc x : U128) : lcgBack inc (lcg inc x) = x := by
  have hinv : mulInverse * 0x2360ED051FC65DA44385DF649FCCF645#128 = 1 := by decide
  rw [lcgBack, lcg, BitVec.add_sub_cancel, ← BitVec.mul_assoc, hinv]
  exact BitVec.one_mul x

/-- R130: back and one step. -/
theorem lcg_lcgBack (inc y : U128) : lcg inc (lcgBack inc y) = y := by
  have hinv : 0x2360ED051FC65DA44385DF649FCCF645#128 * mulInverse = 1 := by decide
  rw [lcgBack, lcg, ← BitVec.mul_assoc, hinv]
  exact (congrArg (· + inc) (BitVec.one_mul (y - inc))).trans (BitVec.sub_add_cancel y inc)

/-- Settles O19: ADVANCE's STATE is the step transform, which has an inverse. -/
theorem advanceIsABijection : Obligations.AdvanceIsABijection := by
  intro s
  have hadvance : (fun x : U128 => (advance { s with state := x }).state) = lcg s.inc := by
    funext x
    exact advance_state { s with state := x }
  rw [hadvance]
  exact Function.bijective_iff_has_inverse.mpr ⟨lcgBack s.inc, lcgBack_lcg s.inc, lcg_lcgBack s.inc⟩

/-! ### The period -/

/-- Where 4 divides `m - 1`, the sum of the first `n` powers of `m` has as many factors 2 as `n`. -/
theorem two_pow_dvd_geom_sum_iff {m : ℤ} (hm : 4 ∣ m - 1) (hne : m - 1 ≠ 0) (k n : ℕ) :
    2 ^ k ∣ ∑ i ∈ Finset.range n, m ^ i ↔ (2 : ℤ) ^ k ∣ n := by
  have hodd : ¬ 2 ∣ m := by omega
  have hfinite : emultiplicity 2 (m - 1) ≠ ⊤ :=
    finiteMultiplicity_iff_emultiplicity_ne_top.mp (Int.finiteMultiplicity_iff.mpr ⟨by decide, hne⟩)
  have hlift : emultiplicity 2 (m ^ n - 1) = emultiplicity 2 (m - 1) + emultiplicity (2 : ℤ) n := by
    simpa using Int.two_pow_sub_pow' n hm hodd
  rw [← geom_sum_mul, emultiplicity_mul Int.prime_two, add_comm] at hlift
  rw [pow_dvd_iff_le_emultiplicity, pow_dvd_iff_le_emultiplicity, ENat.add_right_injective_of_ne_top hfinite hlift]

/-- R176: `n` steps move the state by the sum of the first `n` powers of the multiplier, times the first step's move. -/
theorem lcg_iterate (inc x : U128) (n : ℕ) :
    (lcg inc)^[n] x = x + (∑ i ∈ Finset.range n, Config.MUL ^ i) * ((Config.MUL - 1) * x + inc) := by
  induction n with
  | zero => simp
  | succ n ih =>
    rw [Function.iterate_succ_apply', ih, ← affine_MUL, affine, geom_sum_succ]
    simp only [add128, mul128]
    ring

/-- A product with an odd number is 0 mod 2^128 only where the other factor is. -/
theorem natCast_mul_eq_zero_iff (n : ℕ) {u : U128} (hu : u.getLsbD 0 = true) : (n : U128) * u = 0 ↔ 2 ^ 128 ∣ n := by
  rw [getLsbD_zero_eq, decide_eq_true_iff] at hu
  have hcoprime : Nat.Coprime (2 ^ 128) u.toNat :=
    Nat.Coprime.pow_left 128 (Nat.coprime_two_left.mpr (Nat.odd_iff.mpr hu))
  rw [← BitVec.toNat_inj, BitVec.toNat_mul, BitVec.natCast_eq_ofNat, BitVec.toNat_ofNat, Nat.mod_mul_mod]
  exact (Nat.dvd_iff_mod_eq_zero ..).symm.trans hcoprime.dvd_mul_right

/-- Settles O18: the first step's move is odd, and the sum of powers is 0 mod 2^128 exactly where `n` is. -/
theorem generatorHasFullPeriod : Obligations.GeneratorHasFullPeriod := by
  intro inc x n hinc
  have hmove : ((Config.MUL - 1) * x + inc).getLsbD 0 = true := by
    have hmul : Config.MUL - 1 = 0x2360ED051FC65DA44385DF649FCCF644#128 := by decide
    rw [getLsbD_zero_eq, decide_eq_true_iff] at hinc ⊢
    rw [hmul, BitVec.toNat_add, BitVec.toNat_mul, BitVec.toNat_ofNat]
    omega
  have hsum : ∑ i ∈ Finset.range n, Config.MUL ^ i = ((∑ i ∈ Finset.range n, Config.MUL.toNat ^ i : ℕ) : U128) := by
    push_cast
    rw [BitVec.natCast_eq_ofNat, BitVec.ofNat_toNat, BitVec.setWidth_eq]
  rw [lcg_iterate, add_eq_left, hsum, natCast_mul_eq_zero_iff _ hmove]
  have hdvd := two_pow_dvd_geom_sum_iff (m := Config.MUL.toNat) (by decide) (by decide) 128 n
  exact_mod_cast hdvd

end Sys2Proof.Machine

/-! O16, O17, O20: jumping and stepping. -/

namespace Sys2Proof.Machine

/-! ### JUMP against ROLL -/

/-- An instruction's transfer has the instruction's effect. -/
theorem commandEffect_encode (cfg : Config) (a : ArchRegs) (i : Instr) :
    commandEffect cfg a (encode i) = instrEffect cfg a i := by
  rw [commandEffect, decode_encode]

/-- R130: ADVANCE's step is the step transform. -/
theorem lcgNext_eq (inc x : U128) : lcgNext inc x = lcg inc x := congrFun (affine_MUL inc) x

/-- R173, R174: the JUMP of a seeded block takes the step transform as many times as the distance says. -/
theorem instrEffect_jump_of_seeded (cfg : Config) {a : ArchRegs} (d : U128) (hs : a.seeded = true) :
    (instrEffect cfg a (.jump d)).regs =
      ⟨(lcg a.inc)^[d.toNat] a.state, a.inc, wrapStep cfg.wStep (a.stepCount + d), a.trc, true⟩ := by
  simp only [instrEffect, hs, if_true, ← jumpCoef_apply]
  rfl

/-- R152: the ROLL of a seeded block takes the step transform once. -/
theorem rollOnce_regs {s : State} (hw : s.wasReset = true) (hs : s.seeded = true) :
    archOf (rollOnce s) = ⟨lcg s.inc s.state, s.inc, wrapStep s.cfg.wStep (s.stepCount + 1), s.trc, true⟩ ∧
      (rollOnce s).wasReset = true ∧ (rollOnce s).cfg = s.cfg := by
  obtain ⟨t, ht, hres⟩ := transact_result (encode .roll) hw
  have hregs := hres.regs
  rw [commandEffect_encode] at hregs
  rw [rollOnce, ht]
  refine ⟨?_, hres.wasReset.trans hw, hres.cfg⟩
  simpa [instrEffect, archOf, hs, lcgNext_eq] using hregs

/-- R152: `n` ROLLs of a seeded block take the step transform `n` times. -/
theorem rollOnce_iterate (n : Nat) {s : State} (hw : s.wasReset = true) (hs : s.seeded = true)
    (hfits : wrapStep s.cfg.wStep s.stepCount = s.stepCount) :
    (rollOnce^[n] s).state = (lcg s.inc)^[n] s.state ∧ (rollOnce^[n] s).inc = s.inc ∧
      (rollOnce^[n] s).stepCount = wrapStep s.cfg.wStep (s.stepCount + BitVec.ofNat 128 n) := by
  induction n generalizing s with
  | zero => simp [hfits]
  | succ n ih =>
    obtain ⟨hregs, hw', hcfg⟩ := rollOnce_regs hw hs
    obtain ⟨hstate, hinc, hstep, -, hs'⟩ := ArchRegs.mk.inj hregs
    obtain ⟨ihstate, ihinc, ihstep⟩ := ih hw' hs' (by rw [hstep, hcfg, wrapStep_wrapStep])
    simp only [Function.iterate_succ_apply]
    refine ⟨by rw [ihstate, hstate, hinc], ihinc.trans hinc, ?_⟩
    rw [ihstep, hstep, hcfg, wrapStep_add, BitVec.add_assoc, Nat.add_comm n 1, BitVec.ofNat_add]
    rfl

/-- Settles O16: both take the step transform `d` times and count `d`. -/
theorem jumpEqualsThatManyRolls : Obligations.JumpEqualsThatManyRolls := by
  intro d s hI hw hs
  obtain ⟨-, hinv⟩ := hI
  obtain ⟨⟨-, -, hfits⟩, -⟩ := hinv hw
  obtain ⟨hstate, hinc, hstep⟩ := rollOnce_iterate d.toNat hw hs hfits
  obtain ⟨t, ht, hres⟩ := transact_result (encode (.jump d)) hw
  have hregs := hres.regs
  rw [commandEffect_encode, instrEffect_jump_of_seeded _ _ hs] at hregs
  obtain ⟨htstate, htinc, htstep, -, -⟩ := ArchRegs.mk.inj hregs
  refine ⟨t, ht, htstate.trans hstate.symm, ?_, htinc.trans hinc.symm⟩
  rw [hstep, BitVec.ofNat_toNat, BitVec.setWidth_eq]
  exact htstep

/-! ### There and back -/

/-- R175: two distances that add up to 0 leave the state where it was. -/
theorem lcg_iterate_back {inc d e : U128} (hodd : inc.getLsbD 0 = true) (hsum : d + e = 0) (x : U128) :
    (lcg inc)^[e.toNat] ((lcg inc)^[d.toNat] x) = x := by
  rw [← Function.iterate_add_apply, generatorHasFullPeriod inc x _ hodd, Nat.dvd_iff_mod_eq_zero, Nat.add_comm,
    ← BitVec.toNat_add, hsum]
  rfl

/-- R14: the residues of `k` and `-k` add up to 0. -/
theorem trunc128_add_neg (k : Int) : trunc128 k + trunc128 (-k) = 0 := by
  rw [trunc128, trunc128, BitVec.ofInt_neg]
  exact add_neg_cancel _

/-- Settles O17: the two distances add up to a multiple of the period, and to 0 in STEP. -/
theorem jumpBackRestoresStateAndStep : Obligations.JumpBackRestoresStateAndStep := by
  intro k s hI hw hs
  obtain ⟨-, hinv⟩ := hI
  obtain ⟨⟨hodd, -, hfits⟩, -⟩ := hinv hw
  refine ⟨_, _, execJump_of_seeded _ hs, execJump_of_seeded _ hs, ?state, ?step, rfl, hs⟩
  case state =>
    rw [jumpCoef_apply, jumpCoef_apply]
    exact lcg_iterate_back (hodd hs) (trunc128_add_neg k) s.state
  case step =>
    rw [wrapStep_add, BitVec.add_assoc, trunc128_add_neg]
    exact (congrArg _ (BitVec.add_zero s.stepCount)).trans hfits

/-! ### STEP as a signed distance -/

/-- R35: the low `w` bits of a residue mod 2^128 are the residue mod 2^w. -/
theorem setWidth_wrapStep_trunc128 {w : Nat} (hw : w ≤ 128) (k : Int) :
    (wrapStep w (trunc128 k)).setWidth w = BitVec.ofInt w k := by
  apply BitVec.eq_of_toNat_eq
  have hdvd : ((2 : Int) ^ w) ∣ 2 ^ 128 := pow_dvd_pow 2 hw
  zify
  rw [BitVec.toNat_setWidth, wrapStep_toNat, Nat.mod_mod, BitVec.toNat_ofInt]
  push_cast
  rw [trunc128_toNat, Int.emod_emod_of_dvd k hdvd, Int.toNat_of_nonneg (Int.emod_nonneg k (by positivity))]

/-- R35, R193: a distance in the signed range of `w` bits reads back. -/
theorem signedView_wrapStep_trunc128 {w : Nat} (hpos : 1 ≤ w) (hw : w ≤ 128) {k : Int} (hlow : -2 ^ (w - 1) ≤ k)
    (hhigh : k < 2 ^ (w - 1)) : signedView w (wrapStep w (trunc128 k)) = k := by
  rw [signedView, setWidth_wrapStep_trunc128 hw]
  exact BitVec.toInt_ofInt_eq_self hpos hlow hhigh

/-- Settles O20: the decoder's arm for word 7, the read, and STEP after the JUMP as a reduced residue. -/
theorem stepReadsBackTheSignedDistance : Obligations.StepReadsBackTheSignedDistance := by
  refine ⟨fun a b => decodeIsTotalOnTheOpcodeMap ⟨0x07#8, a, b⟩, fun s => rfl, fun k s hs hstep => ?_⟩
  refine ⟨_, _, ⟨0, wrapStep s.cfg.wStep (trunc128 (-k))⟩, execJump_of_seeded _ hs, rfl, ?answer, rfl, rfl,
    fun hcfg hlow hhigh => ?signed⟩
  case answer => simp [hstep, statusOk]
  case signed =>
    simp only [Config.wellFormed, Bool.and_eq_true, decide_eq_true_eq] at hcfg
    obtain ⟨⟨⟨-, hpos⟩, hwidth⟩, -⟩ := hcfg
    exact signedView_wrapStep_trunc128 hpos hwidth (by omega) (by omega)

end Sys2Proof.Machine

/-! O47, O48, O49, O51, O52: runs of host actions, by the registers, the responses and the events that they compute. -/

namespace Sys2Proof.Machine

/-! ### Runs in a row -/

/-- The registers after two lists of actions in a row. -/
theorem regsAfter_append (cfg : Config) (hs hs' : List HostAction) (a : ArchRegs) :
    regsAfter cfg (hs ++ hs') a = regsAfter cfg hs' (regsAfter cfg hs a) := by
  induction hs generalizing a with
  | nil => rfl
  | cons h hs ih => cases h <;> exact ih _

/-- The responses to two lists of actions in a row. -/
theorem responsesOf_append (cfg : Config) (hs hs' : List HostAction) (a : ArchRegs) :
    responsesOf cfg (hs ++ hs') a = responsesOf cfg hs a ++ responsesOf cfg hs' (regsAfter cfg hs a) := by
  induction hs generalizing a with
  | nil => rfl
  | cons h hs ih =>
    cases h with
    | command c => exact congrArg (_ :: ·) (ih _)
    | reset => exact ih _

/-- The events of two lists of actions in a row. -/
theorem eventsOf_append (cfg : Config) (hs hs' : List HostAction) (a : ArchRegs) :
    eventsOf cfg (hs ++ hs') a = eventsOf cfg hs a ++ eventsOf cfg hs' (regsAfter cfg hs a) := by
  induction hs generalizing a with
  | nil => rfl
  | cons h hs ih =>
    cases h with
    | command c => exact (congrArg (_ ++ ·) (ih _)).trans (List.append_assoc ..).symm
    | reset => exact ih _

/-- R251: a run that begins with a reset, from any state. -/
theorem runActions_reset_result (hs : List HostAction) (s : State) :
    ∃ t, runActions (.reset :: hs) s = .next t ∧ archOf t = regsAfter s.cfg hs .zero ∧
      t.taken = s.taken ++ responsesOf s.cfg hs .zero ∧ t.traceLog = s.traceLog ++ eventsOf s.cfg hs .zero := by
  obtain ⟨t, ht, -, hregs, htaken, hevents⟩ := runActions_result hs (resetEdge { PortIn.idle with rst := true } s) (by simp)
  obtain ⟨-, hlog⟩ := hevents (by simp)
  have hzero : archOf (resetEdge { PortIn.idle with rst := true } s) = .zero := rfl
  refine ⟨t, ht, ?_, ?_, ?_⟩
  · simpa [hzero] using hregs
  · simpa [hzero] using htaken
  · simpa [hzero] using hlog

/-! ### Every command answers -/

/-- R87: no response of a run has the reserved status. -/
theorem responsesOf_status_ne (cfg : Config) (hs : List HostAction) (a : ArchRegs) :
    ∀ r ∈ responsesOf cfg hs a, r.status ≠ 3#2 := by
  induction hs generalizing a with
  | nil => simp [responsesOf]
  | cons h hs ih =>
    cases h with
    | command c => exact List.forall_mem_cons.mpr ⟨commandEffect_status_ne cfg a c, ih _⟩
    | reset => exact ih _

/-- Settles O47: a run's responses are those of its commands. -/
theorem everyCommandGetsOneResponse : Obligations.EveryCommandGetsOneResponse := by
  intro hs s hw
  obtain ⟨t, ht, -, -, htaken, -⟩ := runActions_result hs s hw
  exact ⟨t, _, ht, htaken, responsesOf_length s.cfg hs (archOf s), responsesOf_status_ne s.cfg hs (archOf s)⟩

/-! ### Reads -/

/-- R195: a read writes no register and lets out no event. -/
theorem instrEffect_of_isRead (cfg : Config) (a : ArchRegs) {i : Instr} (hi : isRead i = true) :
    (instrEffect cfg a i).regs = a ∧ (instrEffect cfg a i).events = [] := by
  cases i with
  | rdstate | rdinc | rdstep | rdstat => exact ⟨rfl, rfl⟩
  | seed | roll | jump | trace => cases hi

/-- R195: a run with a read between its two parts. -/
theorem runs_with_read (cfg : Config) (pre post : List HostAction) (a : ArchRegs) {i : Instr} (hi : isRead i = true) :
    regsAfter cfg (pre ++ .command (encode i) :: post) a = regsAfter cfg (pre ++ post) a ∧
      responsesOf cfg (pre ++ .command (encode i) :: post) a =
        responsesOf cfg pre a ++ [(instrEffect cfg (regsAfter cfg pre a) i).response] ++
          responsesOf cfg post (regsAfter cfg pre a) ∧
      eventsOf cfg (pre ++ .command (encode i) :: post) a = eventsOf cfg (pre ++ post) a := by
  obtain ⟨hregs, hevents⟩ := instrEffect_of_isRead cfg (regsAfter cfg pre a) hi
  refine ⟨?_, ?_, ?_⟩
  · rw [regsAfter_append, regsAfter_append, regsAfter, commandEffect_encode, hregs]
  · rw [responsesOf_append, responsesOf, commandEffect_encode, hregs, List.append_assoc, List.singleton_append]
  · rw [eventsOf_append, eventsOf_append, eventsOf, commandEffect_encode, hregs, hevents, List.nil_append]

/-- Settles O48: the two runs differ in the response to the read. -/
theorem readsCanBeInsertedAnywhere : Obligations.ReadsCanBeInsertedAnywhere := by
  intro s pre post i hI hready hi
  obtain ⟨hw, hb, -⟩ := hready
  obtain ⟨-, -, -, hevents, -⟩ := idle_facts hI hw hb
  obtain ⟨t, ht, -, htregs, httaken, htlog⟩ := runActions_result (pre ++ .command (encode i) :: post) s hw
  obtain ⟨u, hu, -, huregs, hutaken, hulog⟩ := runActions_result (pre ++ post) s hw
  obtain ⟨-, htlog⟩ := htlog hevents
  obtain ⟨-, hulog⟩ := hulog hevents
  obtain ⟨hregs, hresponses, hsameEvents⟩ := runs_with_read s.cfg pre post (archOf s) hi
  rw [hresponses, ← List.append_assoc, ← List.append_assoc] at httaken
  rw [responsesOf_append, ← List.append_assoc] at hutaken
  have hsame : archOf t = archOf u := by rw [htregs, huregs, hregs]
  obtain ⟨hstate, hinc, hstep, htrc, hseeded⟩ := ArchRegs.mk.inj hsame
  exact ⟨t, u, _, _, _, ht, hu, httaken, hutaken, responsesOf_length .., by rw [htlog, hulog, hsameEvents], hstate, hinc,
    hstep, htrc, hseeded⟩

/-! ### TRC -/

/-- The registers agree in all but TRC. -/
structure SameButTrc (a a' : ArchRegs) : Prop where
  state : a.state = a'.state
  inc : a.inc = a'.inc
  stepCount : a.stepCount = a'.stepCount
  seeded : a.seeded = a'.seeded

/-- The two answers to the command agree, the data of TRACE and RDSTAT set aside. -/
def SameAnswerButTrc (c : Command) (r r' : Response) : Prop :=
  r.status = r'.status ∧ (decode c ≠ .instr .trace → decode c ≠ .instr .rdstat → r = r')

/-- R37: an instruction writes all registers but TRC without reading TRC. -/
theorem instrEffect_sameButTrc (cfg : Config) (i : Instr) {a a' : ArchRegs} (h : SameButTrc a a') :
    SameButTrc (instrEffect cfg a i).regs (instrEffect cfg a' i).regs := by
  obtain ⟨hstate, hinc, hstep, hseeded⟩ := h
  cases i with
  | seed x b => constructor <;> simp [instrEffect, hstate, hinc, hstep]
  | roll => cases hs : a'.seeded <;> constructor <;> simp [instrEffect, hstate, hinc, hstep, hseeded, hs]
  | jump d => cases hs : a'.seeded <;> constructor <;> simp [instrEffect, hstate, hinc, hstep, hseeded, hs]
  | trace | rdstate | rdinc | rdstep | rdstat => exact ⟨hstate, hinc, hstep, hseeded⟩

/-- R37: an instruction answers without reading TRC, the data of TRACE and RDSTAT set aside. -/
theorem instrEffect_response_sameButTrc (cfg : Config) (i : Instr) {a a' : ArchRegs} (h : SameButTrc a a') :
    (instrEffect cfg a i).response.status = (instrEffect cfg a' i).response.status ∧
      (i ≠ .trace → i ≠ .rdstat → (instrEffect cfg a i).response = (instrEffect cfg a' i).response) := by
  obtain ⟨hstate, hinc, hstep, hseeded⟩ := h
  cases i with
  | seed x b => simp [instrEffect, hstate, hinc]
  | roll => cases hs : a'.seeded <;> simp [instrEffect, hstate, hinc, hseeded, hs]
  | jump d => cases hs : a'.seeded <;> simp [instrEffect, hseeded, hs]
  | rdstate => simp [instrEffect, hstate]
  | rdinc => simp [instrEffect, hinc]
  | rdstep => simp [instrEffect, hstep]
  | trace | rdstat => simp [instrEffect]

/-- R37 for a command transfer's registers. -/
theorem commandEffect_sameButTrc (cfg : Config) (c : Command) (a a' : ArchRegs) (h : SameButTrc a a') :
    SameButTrc (commandEffect cfg a c).regs (commandEffect cfg a' c).regs := by
  unfold commandEffect
  cases decode c with
  | instr i => exact instrEffect_sameButTrc cfg i h
  | illegal _ => exact h

/-- R37 for a command transfer's response. -/
theorem commandEffect_sameAnswerButTrc (cfg : Config) (c : Command) (a a' : ArchRegs) (h : SameButTrc a a') :
    SameAnswerButTrc c (commandEffect cfg a c).response (commandEffect cfg a' c).response := by
  unfold commandEffect SameAnswerButTrc
  cases decode c with
  | instr i => simpa using instrEffect_response_sameButTrc cfg i h
  | illegal _ => exact ⟨rfl, fun _ _ => rfl⟩

/-- R37: the two responses to each command of a list of actions. -/
theorem responsesOf_sameAnswerButTrc (cfg : Config) (hs : List HostAction) {a a' : ArchRegs} (h : SameButTrc a a')
    {n : Nat} {c : Command} (hn : (commandsOf hs)[n]? = some c) :
    ∃ r r', (responsesOf cfg hs a)[n]? = some r ∧ (responsesOf cfg hs a')[n]? = some r' ∧ SameAnswerButTrc c r r' :=
  responsesOf_related ⟨rfl, rfl, rfl, rfl⟩ (commandEffect_sameButTrc cfg) (commandEffect_sameAnswerButTrc cfg) hs h hn

/-- R37: the statuses of a list of actions. -/
theorem responsesOf_status_sameButTrc (cfg : Config) (hs : List HostAction) {a a' : ArchRegs} (h : SameButTrc a a') :
    (responsesOf cfg hs a).map Response.status = (responsesOf cfg hs a').map Response.status := by
  apply List.ext_getElem?
  intro n
  cases hn : (commandsOf hs)[n]? with
  | none =>
    have hlen : (commandsOf hs).length ≤ n := List.getElem?_eq_none_iff.mp hn
    rw [List.getElem?_eq_none (by simpa using hlen), List.getElem?_eq_none (by simpa using hlen)]
  | some c =>
    obtain ⟨r, r', hr, hr', hstatus, -⟩ := responsesOf_sameAnswerButTrc cfg hs h hn
    simp [hr, hr', hstatus]

/-- Settles O49: both runs are `regsAfter` and `responsesOf` of registers that agree but for TRC. -/
theorem traceControlDoesNotInterfere : Obligations.TraceControlDoesNotInterfere := by
  intro s b hs hw
  have h : SameButTrc (archOf s) (archOf { s with trc := b }) := ⟨rfl, rfl, rfl, rfl⟩
  obtain ⟨t, ht, -, htregs, httaken, -⟩ := runActions_result hs s hw
  obtain ⟨u, hu, -, huregs, hutaken, -⟩ := runActions_result hs { s with trc := b } hw
  have hend : SameButTrc (archOf t) (archOf u) :=
    htregs ▸ huregs ▸ regsAfter_related ⟨rfl, rfl, rfl, rfl⟩ (commandEffect_sameButTrc s.cfg) hs h
  refine ⟨t, u, _, _, ht, hu, hend.state, hend.inc, hend.stepCount, hend.seeded, httaken, hutaken,
    responsesOf_status_sameButTrc s.cfg hs h, fun n c hn htrace hrdstat => ?_⟩
  obtain ⟨r, r', hr, hr', -, heq⟩ := responsesOf_sameAnswerButTrc s.cfg hs h hn
  rw [hr, hr', heq htrace hrdstat]

/-! ### Runs from reset -/

/-- Settles O51: both runs begin with the reset registers. -/
theorem resetErasesThePast : Obligations.ResetErasesThePast := by
  intro s s' hs hcfg
  obtain ⟨t, ht, hregs, htaken, hlog⟩ := runActions_reset_result hs s
  obtain ⟨t', ht', hregs', htaken', hlog'⟩ := runActions_reset_result hs s'
  rw [← hcfg] at hregs' htaken' hlog'
  obtain ⟨hstate, hinc, hstep, htrc, hseeded⟩ := ArchRegs.mk.inj (hregs.trans hregs'.symm)
  exact ⟨t, t', _, _, ht, ht', htaken, htaken', hlog, hlog', hstate, hinc, hstep, htrc, hseeded⟩

/-- R135: the registers and the response of a SEED right after reset. -/
theorem instrEffect_seed_zero (cfg : Config) (a b : U128) :
    (instrEffect cfg .zero (.seed a b)).regs =
        ⟨lcg (incval b) (incval b + a), incval b, wrapStep cfg.wStep 2, false, true⟩ ∧
      (instrEffect cfg .zero (.seed a b)).response = ⟨0, lcg (incval b) (incval b + a)⟩ := by
  simp [instrEffect, ArchRegs.zero, lcgNext_eq, seedInc_zero, seedStart_zero, lcg_zero, add128]

/-- Settles O52: the reset registers and one SEED. -/
theorem constructionSeedsTheBlock : Obligations.ConstructionSeedsTheBlock := by
  intro seed seq s
  obtain ⟨t, ht, hregs, htaken, -⟩ :=
    runActions_reset_result [.command (encode (.seed (trunc128 seed) (trunc128 seq)))] s
  obtain ⟨hseedRegs, hseedResponse⟩ := instrEffect_seed_zero s.cfg (trunc128 seed) (trunc128 seq)
  rw [regsAfter, regsAfter, commandEffect_encode, hseedRegs] at hregs
  rw [responsesOf, responsesOf, commandEffect_encode, hseedResponse] at htaken
  obtain ⟨hstate, hinc, hstep, -, hseeded⟩ := ArchRegs.mk.inj hregs
  refine ⟨t, ht, hseeded, ?_, ?_, hstep, ?_⟩
  · rw [hinc, incval_toNat_low127]
  · rw [hstate, hinc]
  · rw [htaken, hstate]

end Sys2Proof.Machine

/-! O45, O46: the edges of a command are one transaction. `finished` is the state in which the command in progress will leave
the block; no edge on the way changes it. -/

namespace Sys2Proof.Machine

/-- The end of the command in progress, its response being `r`: the response taken, its events all sampled, the block
idle. -/
def finished (r : Response) (s : State) : State :=
  openResponseRegs
    { s with
      taken := s.taken ++ [r]
      traceLog := s.traceLog ++ (s.trcPort.toList ++ s.events)
      rspValid := false
      answer := none
      wait := 0
      events := []
      trcPort := none
      busy := false }

/-- R256: presenting neither loses nor reorders an event. -/
theorem presentTrace_events (s : State) : (presentTrace s).trcPort.toList ++ (presentTrace s).events = s.events := by
  obtain ⟨e, hevents, hport, -⟩ | ⟨hevents, hport, -⟩ := presentTrace_cases s
  · rw [hport, hevents]; rfl
  · rw [hport, hevents]; rfl

/-- Presenting an empty port anew leaves the end as it is. -/
theorem finished_presentTrace (r : Response) {s : State} (hport : s.trcPort = none) :
    finished r (presentTrace s) = finished r s := by
  simp [finished, openResponseRegs, presentTrace_events, hport]

/-- A sampled edge of a command in progress leaves the end as it is. -/
theorem finished_runOn (r : Response) {p : PortIn} {s : State} (hp : p.traceSampled = true) (ho : p.offer = s.offered)
    (hv : s.rspValid = false) : finished r (runOn p s) = finished r s := by
  have hevents : (runOn p s).trcPort.toList ++ (runOn p s).events = s.events := by
    rw [runOn, presentTrace_events]
    simp
  have htaken : (runOn p s).taken = s.taken := by simp [runOn, progress, hv]
  have hdrawn : (runOn p s).drawn = s.drawn := by simp [runOn, progress, hv]
  simp [finished, openResponseRegs, hevents, htaken, hdrawn, hp, ho]

/-- A watching edge leaves the end as it is, whatever the host is to drive next. -/
theorem finished_watch (r : Response) {s : State} (l l' : List HostEvent) (ho : s.offered = none)
    (hv : s.rspValid = false) :
    finished r (withInputs l (runOn PortIn.watch (withInputs l' s))) = finished r (withInputs l s) := by
  have hend : finished r (runOn PortIn.watch (withInputs l' s)) = finished r (withInputs l' s) :=
    finished_runOn r rfl ho.symm hv
  exact congrArg (withInputs l) hend

/-- R254: a sampled edge that takes the response ends the command. -/
theorem runOn_take {p : PortIn} {s : State} (hp : p.traceSampled = true) (ho : p.offer = s.offered)
    (hready : p.rspReady = true) (hv : s.rspValid = true) (hans : s.answer = none) (hwait : s.wait = 0)
    (hevents : s.events = []) : runOn p s = finished ⟨s.rspStatus, s.rspData⟩ s := by
  rw [runOn, progress_of_taken (by simpa using hv) hready, presentTrace_of_no_events (by simpa using hevents)]
  simp [finished, takeResponse, openResponseRegs, hans, hwait, hevents, hp, ho]

/-- A transaction ends its command. -/
theorem retire_eq_finished {s : State} {r : Response} (hans : s.answer = some r) (hv : s.rspValid = false)
    (hport : s.trcPort = none) : retire s = finished r s := by
  rw [retire_of_answer hans]
  simp [finished, openResponseRegs, hv, hport]

/-! ### One command -/

/-- R254: the edge that takes a valid response ends the command. -/
theorem step_take {s : State} {rest : List HostEvent} (hI : BlockInv s) (hw : s.wasReset = true)
    (hv : s.rspValid = true) (ho : s.offered = none) (hin : s.inputs = .edge PortIn.take :: rest) :
    step s = .next (finished ⟨s.rspStatus, s.rspData⟩ (withInputs rest s)) := by
  obtain ⟨-, hans, hwait, hevents, -⟩ := valid_facts hI hw hv
  rw [step_of_valid hI hw hv hin rfl (by decide) (.inl ho)]
  exact congrArg _ (runOn_take (s := withInputs rest s) rfl ho.symm rfl hv hans hwait hevents)

/-- R254, R258: the edges of the cycles left, and the edge that takes the response, end the command in progress. -/
theorem run_in_progress (n : Nat) (rest : List HostEvent) {s : State} {r : Response} (hI : BlockInv s)
    (hw : s.wasReset = true) (hans : s.answer = some r) (ho : s.offered = none) (hwait : s.wait = n)
    (hin : s.inputs = List.replicate n (.edge PortIn.watch) ++ .edge PortIn.take :: rest) :
    Host.Core.run core (n + 1) s = .next (finished r (withInputs rest s)) := by
  induction n generalizing s with
  | zero =>
    obtain ⟨-, -, hpos⟩ := in_progress_facts hI hw hans
    omega
  | succ n ih =>
    obtain ⟨-, hv, -⟩ := in_progress_facts hI hw hans
    obtain ⟨t, ht, hstep, hI', hw', ho', hin', hcycle⟩ := step_cycle hI hw hans hin rfl (Nat.le_refl 1) (.inl ho)
    -- The end of the command is the same after this edge.
    have hend : finished r (withInputs rest t) = finished r (withInputs rest s) := by
      rw [ht, finished_watch r _ _ ho hv]
    rw [run_succ_of_next _ hstep, ← hend]
    obtain ⟨hlast, hvalid, hstatus, hdata, -⟩ | ⟨hlast, hans', hwait'⟩ := hcycle
    · obtain rfl : n = 0 := by omega
      rw [run_succ_of_next _ (step_take hI' hw' hvalid ho' hin'), hstatus, hdata]
      rfl
    · exact ih hI' hw' hans' ho' (by omega) hin'

/-- R254: an edge that presents a command to a ready block starts the command, whose end is the transaction's. -/
theorem step_present {s : State} {c : Command} {rest : List HostEvent} (hI : BlockInv s) (hready : Ready s)
    (hin : s.inputs = .edge (PortIn.present c) :: rest) :
    ∃ u r, step s = .next (presentTrace u) ∧ u.wasReset = true ∧ u.offered = none ∧ u.inputs = rest ∧ u.trcPort = none ∧
      u.answer = some r ∧ u.wait = commandLatency c s ∧
      ∀ l, transact c (withInputs l s) = .next (withInputs l (finished r u)) := by
  obtain ⟨hw, hb, ho⟩ := hready
  obtain ⟨hv, -, -, -, hport⟩ := idle_facts hI hw hb
  obtain ⟨u, hu, hres⟩ := runCommand_result c (acceptCommand (withInputs rest s))
  have hport' : u.trcPort = none := hres.trcPort.trans hport
  have htransact : transact c (withInputs rest s) = .next (retire u) := by simp [transact, hw, hu]
  rw [retire_eq_finished hres.answer (hres.rspValid.trans hv) hport'] at htransact
  refine ⟨u, _, ?step, hres.wasReset.trans hw, hres.offered, hres.inputs, hport', hres.answer, hres.wait,
    fun l => ?transact⟩
  case step =>
    rw [step_of_accept hin (Nat.le_refl 1) (.inl ho) rfl hw rfl rfl hb hv]
    exact congrArg (afterNext presentTrace) hu
  case transact => exact (transact_withInputs c l (withInputs rest s)).trans (congrArg _ htransact)

/-- Settles O45: the accepting edge runs the command, and the edges after it end it as the transaction does. -/
theorem handshakeIsOneTransaction : Obligations.HandshakeIsOneTransaction := by
  intro s c rest hI hready hin
  have hin : s.inputs = .edge (PortIn.present c) ::
      (List.replicate (commandLatency c s) (.edge PortIn.watch) ++ .edge PortIn.take :: rest) := by
    simp [hin, driveCommand]
  obtain ⟨u, r, hstep, hw, ho, hinputs, hport, hans, hwait, htransact⟩ := step_present hI hready hin
  have hI' : BlockInv (presentTrace u) := everyStepKeepsTheInvariant s _ hI hstep
  have hrun := run_in_progress (commandLatency c s) rest hI' (by simpa using hw) (by simpa using hans) (by simpa using ho)
    (by simpa using hwait) (by simpa using hinputs)
  rw [run_succ_of_next _ hstep, hrun, htransact, ← finished_presentTrace r hport]
  rfl

/-! ### A program -/

/-- A transaction leaves a ready block that meets the invariant. -/
theorem TransactionResult.blockInv_ready {c : Command} {s t : State} (hres : TransactionResult c s t) (hI : BlockInv s)
    (hready : Ready s) : BlockInv t ∧ Ready t := by
  obtain ⟨hw, hb, -⟩ := hready
  obtain ⟨hv, -, -, -, hport⟩ := idle_facts hI hw hb
  obtain ⟨hcfg, hinv⟩ := hI
  obtain ⟨hseed, -⟩ := hinv hw
  have hseed' : SeedingInv t := by
    rw [seedingInv_iff] at hseed ⊢
    rw [hres.regs, hres.cfg]
    exact commandEffect_seedingRegs s.cfg c hseed
  exact ⟨blockInv_of_idle (hres.cfg ▸ hcfg) hseed' hres.busy (hres.rspValid.trans hv) hres.answer hres.wait hres.events
    (hres.trcPort.trans hport), hres.wasReset.trans hw, hres.busy, hres.offered⟩

/-- A reset leaves a ready block. -/
theorem ready_resetEdge (s : State) : Ready (resetEdge { PortIn.idle with rst := true } s) := ⟨rfl, rfl, rfl⟩

/-- Settles O46: by induction on the program, a command by its transaction and a reset by its edge. -/
theorem scriptRunsTheProgram : Obligations.ScriptRunsTheProgram := by
  intro s hs
  induction hs generalizing s with
  | nil => exact fun _ _ => rfl
  | cons h hs ih =>
    intro hI hready
    cases h with
    | command c =>
      obtain ⟨t, ht, hres⟩ := transact_result c hready.left
      obtain ⟨hI', hready'⟩ := hres.blockInv_ready hI hready
      have hscript : script (.command c :: hs) s = driveCommand (commandLatency c s) c ++ script hs t := by
        rw [script, ht]
      have hlen : (script (.command c :: hs) s).length = commandLatency c s + 2 + (script hs t).length := by
        simp only [hscript, driveCommand, List.length_append, List.length_cons, List.length_replicate, List.length_nil]
      have htransact : ∀ l, transact c (withInputs l s) = .next (withInputs l t) := fun l => by
        rw [transact_withInputs, ht, afterNext_next]
      have hedges : Host.Core.run core (commandLatency c s + 2) (withInputs (script (.command c :: hs) s) s) =
          .next (withInputs (script hs t) t) :=
        (handshakeIsOneTransaction (withInputs (script (.command c :: hs) s) s) c (script hs t) (blockInv_withInputs _ hI)
          hready hscript).trans (htransact (script hs t))
      rw [hlen, run_add_of_next _ hedges, ih t hI' hready', runActions, act, htransact]
    | reset =>
      obtain ⟨-, -, ho⟩ := hready
      have hI' : BlockInv (resetEdge { PortIn.idle with rst := true } s) := blockInv_resetEdge _ hI.left
      have hedge := step_of_rst (s := withInputs (script (.reset :: hs) s) s) rfl (by decide) (.inl ho) rfl
      exact (run_succ_of_next _ hedge).trans (ih _ hI' (ready_resetEdge s))

end Sys2Proof.Machine
